-- ==== Sys2Proof/Word.lean ====
section
/-! DEFINITION. The two widths of the block (R6, R7): bytes and unsigned 16-bit words. -/

namespace Sys2Proof

/-- An 8-bit value: a byte of a request or frame, a register identifier, a device address, a mode. -/
abbrev Byte := BitVec 8

/-- An unsigned 16-bit value: `ACC`, a CRC, a register address, a data value (R6, R7). -/
abbrev Word := BitVec 16

end Sys2Proof
end

