-- ==== Sys2Proof/Config.lean ====
section
/-! DEFINITION. The parameters of the block (R6). Every one but `prec` has the value the spec gives it. -/

namespace Sys2Proof.Config

/-- `NREG`, the number of catalog entries (R6, R18). -/
abbrev nreg : Nat := 13

/-- `MAX_REGS`, the most data values a command carries (R6, D21). -/
abbrev maxRegs : Nat := 13

/-- `MAX_BUF`, the most bytes a buffer operand has (R6, D21). -/
abbrev maxBuf : Nat := 256

/-- The CRC's initial value (R6, R65), also `ACC` after reset (R13). -/
def crcInitial : Word := 0xFFFF#16

/-- The CRC's reflected polynomial constant (R6, R64). -/
def crcPoly : Word := 0xA001#16

/-- The placeholder byte of a read template (R6, R75, D11). -/
def placeholder : Byte := 0x00#8

/-- `PREC[r]`, the decimal precision of register `r`. The spec leaves it OPEN, an argument of the model (R6, R21,
D25, I6), so nothing here gives it a value. DESIGN CHOICE (log entry 6): an opaque constant. -/
opaque prec : Fin 13 → Nat

end Sys2Proof.Config
end

