-- ==== Sys2Proof/Machine/Bytes.lean ====
section
/-! DEFINITION. Byte sequences and the byte order of their 16-bit fields (R8, R31 to R34). -/

namespace Sys2Proof.Machine

/-- `b[i]` (R8). Every rule reads inside the sequence; past its end this is 0 (log entry 13). -/
def byteAt (b : List Byte) (i : Nat) : Byte := b.getD i 0#8

/-- `b[i..j)` (R8). -/
def slice (b : List Byte) (i j : Nat) : List Byte := (b.drop i).take (j - i)

/-- `zext_16` (R7). -/
def zext16 (b : Byte) : Word := b.setWidth 16

/-- `v[15:8]`. -/
def hiByte (v : Word) : Byte := v.extractLsb' 8 8

/-- `v[7:0]`. -/
def loByte (v : Word) : Byte := v.extractLsb' 0 8

/-- `be16(v)`, most-significant byte first (R8): every 16-bit field but the CRC (R31, R33). -/
def be16 (v : Word) : List Byte := [hiByte v, loByte v]

/-- `le16(v)`, least-significant byte first (R8): the CRC field (R31, R66). -/
def le16 (v : Word) : List Byte := [loByte v, hiByte v]

/-- `rd_be16(b, i)` (R8). -/
def rdBe16 (b : List Byte) (i : Nat) : Word := (zext16 (byteAt b i) <<< 8) ||| zext16 (byteAt b (i + 1))

/-- `rd_le16(b, i)` (R8). -/
def rdLe16 (b : List Byte) (i : Nat) : Word := zext16 (byteAt b i) ||| (zext16 (byteAt b (i + 1)) <<< 8)

/-- `n` consecutive big-endian words of `b` from offset `i` (the value lists of R46, R56, R57). -/
def readWords (b : List Byte) (i : Nat) : Nat → List Word
  | 0 => []
  | n + 1 => rdBe16 b i :: readWords b (i + 2) n

/-- `be16(v[0]) ++ be16(v[1]) ++ ...` (R46, R56, R57). -/
def wordBytes : List Word → List Byte
  | [] => []
  | v :: vs => be16 v ++ wordBytes vs

/-- A length or count as the one byte a field or response holds (R23, R46, R56). -/
def byteOf (n : Nat) : Byte := BitVec.ofNat 8 n

/-- A length as the 16-bit field a request holds (R45, R48). -/
def wordOf (n : Nat) : Word := BitVec.ofNat 16 n

end Sys2Proof.Machine
end

