-- ==== Sys2Proof/Machine/Crc.lean ====
section
/-! DEFINITION. The CRC functions (R64 to R66). -/

namespace Sys2Proof.Machine

/-- One of the eight iterations of R64: bit 0 is tested before the logical shift. -/
def crcShift (acc : Word) : Word :=
  if acc.getLsbD 0 then (acc >>> 1) ^^^ Config.crcPoly else acc >>> 1

/-- `n` iterations of R64's loop. -/
def crcShifts : Nat → Word → Word
  | 0, acc => acc
  | n + 1, acc => crcShifts n (crcShift acc)

/-- `crc_step(acc, b)` (R64). -/
def crcStep (acc : Word) (b : Byte) : Word := crcShifts 8 (acc ^^^ zext16 b)

/-- The loop of R65 from any accumulator. -/
def crcFrom : Word → List Byte → Word
  | acc, [] => acc
  | acc, b :: s => crcFrom (crcStep acc b) s

/-- `crc16(s)` (R65). -/
def crc16 (s : List Byte) : Word := crcFrom Config.crcInitial s

/-- A sequence followed by its CRC field, least-significant byte first (R52, R66, R78). -/
def signed (s : List Byte) : List Byte := s ++ le16 (crc16 s)

/-- The CRC over all but the last two bytes of `b` (R66, R70). -/
def bodyCrc (b : List Byte) : Word := crc16 (slice b 0 (b.length - 2))

/-- The CRC field `b` ends in (R34, R66). -/
def crcField (b : List Byte) : Word := rdLe16 b (b.length - 2)

/-- `crc_ok(b)` (R66): false below two bytes. -/
def crcOk (b : List Byte) : Bool := 2 ≤ b.length && bodyCrc b == crcField b

end Sys2Proof.Machine
end

