-- ==== Sys2Proof/Syntax.lean ====
section
/-! DEFINITION. The instructions: one constructor per row of spec/opcode_table.json, and the operands they carry. -/

namespace Sys2Proof

/-- The three protocol modes (R2, R10). Any other `MODE` byte is an unsupported mode (R46). -/
inductive Mode where
  | read
  | singleWrite
  | multipleWrite
deriving DecidableEq, Repr

/-- The thirteen register names (R10, R18). -/
inductive RegName where
  | vSet | iSet | vOut | iOut | power | vIn | lock | protect | cvCc | onOff | bLed | model | version
deriving DecidableEq, Repr

/-- The command descriptor of R46. `data` holds `DATA[0..NDATA)`, so `NDATA` is its length. -/
structure Descriptor where
  addr  : Byte
  mode  : Byte
  start : Byte
  count : Byte
  data  : List Word
deriving DecidableEq, Repr

/-- A command without its `MODE`, for the wire forms, whose row fixes the mode. -/
structure CommandArgs where
  addr  : Byte
  start : Byte
  count : Byte
  data  : List Word
deriving DecidableEq, Repr

/-- The rows of the opcode table: eleven request operations (R43), then six wire frame forms (R52 to R57). The wire
forms carry the operands of the mode rule their row names; log entry 8 says how they stand beside the requests. -/
inductive Instr where
  /-- CRC_INIT (R67). -/
  | crcInit
  /-- CRC_UPDATE (R68). -/
  | crcUpdate (b : Byte)
  /-- CRC_BLOCK (R69). -/
  | crcBlock (buf : List Byte)
  /-- CRC_VERIFY (R70). -/
  | crcVerify (buf : List Byte)
  /-- CRC_READ (R71). -/
  | crcRead
  /-- ENCODE (R74). -/
  | encode (d : Descriptor)
  /-- DECODE (R82): the command and the raw response bytes. -/
  | decode (d : Descriptor) (rsp : List Byte)
  /-- LOOKUP_NAME (R60). -/
  | lookupName (r : Byte)
  /-- LOOKUP_ADDR (R61). -/
  | lookupAddr (a : Word)
  /-- ORDER_INDEX (R62). -/
  | orderIndex (r : Byte)
  /-- RESOLVE_WINDOW (R63). -/
  | resolveWindow (r count : Byte)
  /-- FRAME_READ_REQUEST (R54, R75): `DATA` is not used in this mode. -/
  | frameReadRequest (addr start count : Byte)
  /-- FRAME_SINGLE_WRITE_REQUEST (R55, R76). -/
  | frameSingleWriteRequest (cmd : CommandArgs)
  /-- FRAME_MULTIPLE_WRITE_REQUEST (R56, R77). -/
  | frameMultipleWriteRequest (cmd : CommandArgs)
  /-- FRAME_READ_RESPONSE (R57, R84): the command answered, then the frame's address, values and CRC fields. -/
  | frameReadResponse (cmd : CommandArgs) (address : Byte) (values : List Word) (crc : Word)
  /-- FRAME_SINGLE_WRITE_RESPONSE (R57, R85): the command, then address, echoed register address, echoed value, CRC. -/
  | frameSingleWriteResponse (cmd : CommandArgs) (address : Byte) (regAddr value crc : Word)
  /-- FRAME_MULTIPLE_WRITE_RESPONSE (R57, R86): the command, then address, echoed start address, echoed count, CRC. -/
  | frameMultipleWriteResponse (cmd : CommandArgs) (address : Byte) (startAddr count crc : Word)
deriving DecidableEq, Repr

end Sys2Proof
end

