-- ==== Sys2Proof/Machine/Catalog.lean ====
section
/-! DEFINITION. The register catalog (R18 to R22): constant data, held as configuration (R12). -/

namespace Sys2Proof.Machine

/-- One catalog entry (R18). `PREC` stands apart in `Config.prec`. -/
structure CatalogEntry where
  name  : RegName
  addr  : Word
  range : Option (Word × Word)
deriving DecidableEq, Repr

/-- The thirteen entries of R18, in ordinal order: an entry's place is its identifier. -/
def catalog : List CatalogEntry := [
  ⟨.vSet,   0x0000#16, some (0#16, 50#16)⟩,
  ⟨.iSet,   0x0001#16, some (0#16, 5#16)⟩,
  ⟨.vOut,   0x0002#16, none⟩,
  ⟨.iOut,   0x0003#16, none⟩,
  ⟨.power,   0x0004#16, none⟩,
  ⟨.vIn,    0x0005#16, none⟩,
  ⟨.lock,    0x0006#16, some (0#16, 1#16)⟩,
  ⟨.protect, 0x0007#16, none⟩,
  ⟨.cvCc,   0x0008#16, none⟩,
  ⟨.onOff,  0x0009#16, some (0#16, 1#16)⟩,
  ⟨.bLed,   0x000A#16, some (0#16, 5#16)⟩,
  ⟨.model,   0x000B#16, none⟩,
  ⟨.version, 0x000C#16, none⟩]

/-- The entry an identifier names; none for 13 to 255 (R19). -/
def entryOf (r : Byte) : Option CatalogEntry := catalog[r.toNat]?

/-- Whether an identifier names no register (`r >= 13`, R19). -/
def unknownReg (r : Byte) : Bool := Config.nreg ≤ r.toNat

/-- `ADDR_OF(r)` (R18). Every rule applies it to a valid identifier only; elsewhere it is `zext_16(r)`. -/
def addrOf (r : Byte) : Word :=
  match entryOf r with
  | some e => e.addr
  | none => zext16 r

/-- The address-to-register map (R19, R61): both bytes of the address are compared. -/
def regOfAddr (a : Word) : Option Byte := if 0x000C#16 < a then none else some (loByte a)

/-- `PREC[r]` (R21); no rule applies it to an unknown identifier. -/
def precOf (r : Byte) : Nat := if h : r.toNat < 13 then Config.prec ⟨r.toNat, h⟩ else 0

/-- A register name as the source spells it (R10, R18). -/
def nameText : RegName → String
  | .vSet => "V-SET"
  | .iSet => "I-SET"
  | .vOut => "V-OUT"
  | .iOut => "I-OUT"
  | .power => "POWER"
  | .vIn => "V-IN"
  | .lock => "LOCK"
  | .protect => "PROTECT"
  | .cvCc => "CV/CC"
  | .onOff => "ON/OFF"
  | .bLed => "B-LED"
  | .model => "MODEL"
  | .version => "VERSION"

/-- The identifier a name stands for: its place in the catalog (R10, R18). -/
def regOfName (n : RegName) : Byte := byteOf (catalog.findIdx fun e => e.name == n)

/-- `window(r, c)` (R63): `[r, r+1, ..., r+c-1]`. -/
def window (r : Byte) : Nat → List Byte
  | 0 => []
  | n + 1 => r :: window (r + 1#8) n

end Sys2Proof.Machine
end

