-- ==== Sys2Proof/Machine/State.lean ====
section
/-! DEFINITION. The block's state, its response record, its host's inputs, and reset. -/

namespace Sys2Proof.Machine

/-- The eight statuses of R93. A status type has exactly these values (I9). -/
inductive Status where
  | ok
  | errUnknownRegister
  | errUnsupportedMode
  | errSpan
  | errData
  | integrityFail
  | errFormat
  | errUnsupportedOp
deriving DecidableEq, Repr

/-- The response record (R23); each field's docstring is its name there. -/
structure Response where
  /-- `STATUS`. -/
  status : Status
  /-- `MISUSE`: the flag after the operation. -/
  misuse : Bool
  /-- `CRC`. -/
  crc : Word
  /-- `CRC_BYTES`. -/
  crcBytes : List Byte
  /-- `MATCH`. -/
  crcMatch : Bool
  /-- `FRAME`. -/
  frame : List Byte
  /-- `TEMPLATE`. -/
  template : List Byte
  /-- `TMASK`, one bit per template byte. -/
  tmask : List Bool
  /-- `EXP_LEN`. -/
  expLen : Byte
  /-- `VALID`. -/
  valid : Bool
  /-- `TMATCH`. -/
  tmatch : Bool
  /-- `ADDRESS`. -/
  address : Byte
  /-- `MODE`. -/
  mode : Byte
  /-- `COUNT`. -/
  count : Byte
  /-- `REGS`. -/
  regs : List Byte
  /-- `VALUES`. -/
  values : List Word
  /-- `LK_ADDR`. -/
  lkAddr : Word
  /-- `LK_PREC`. -/
  lkPrec : Nat
  /-- `LK_HASRANGE`. -/
  lkHasRange : Bool
  /-- `LK_MIN`. -/
  lkMin : Word
  /-- `LK_MAX`. -/
  lkMax : Word
  /-- `LK_REG`. -/
  lkReg : Byte
  /-- `LK_ORD`. -/
  lkOrd : Byte
deriving DecidableEq, Repr

/-- What the host does at the block's boundary (R101): presents a request, or gives the reset signal. -/
inductive HostEvent where
  | request (q : List Byte)
  | reset
deriving DecidableEq, Repr

/-- The block's state is `acc` and `misuse` (R12, R27). `inputs` and `response` are its two ports (R11), the model's
own fields: what the host will present, first first, and what the last request returned (log entry 1). -/
structure State where
  /-- `ACC` (R13). -/
  acc : Word
  /-- `MISUSE` (R17). -/
  misuse : Bool
  /-- The request port and the reset signal: events still to come. -/
  inputs : List HostEvent
  /-- The response port. -/
  response : Option Response
deriving DecidableEq, Repr

/-- Why the machine stops with a fault: never. The block has no traps and every request completes (R92, R99, R112), so
no reason exists (log entry 11). -/
inductive Fault where
deriving DecidableEq, Repr

/-- Why the machine refuses an instruction. -/
inductive Refusal where
  /-- Raised only by an arm of `exec` for a row without a meaning; no arm is one. Safe: the machine stops. -/
  | notModelled (mnemonic : String)
deriving DecidableEq, Repr

/-- The machine after reset (R28, R104). The two ports are empty (log entry 4). -/
def State.reset : State :=
  { acc := 0xFFFF#16, misuse := false, inputs := [], response := none }

end Sys2Proof.Machine
end

