-- ==== Sys2Proof/Machine/Operands.lean ====
section
/-! DEFINITION. Reading and checking the operands of a command (R46, R73). -/

namespace Sys2Proof.Machine

/-- A mode's function code (R2, R53). -/
def modeCode : Mode → Byte
  | .read => 0x03#8
  | .singleWrite => 0x06#8
  | .multipleWrite => 0x10#8

/-- The mode a `MODE` byte names, if it is one of the three (R46). -/
def modeOf (m : Byte) : Option Mode :=
  if m = 0x03#8 then some .read
  else if m = 0x06#8 then some .singleWrite
  else if m = 0x10#8 then some .multipleWrite
  else none

/-- The descriptor a command has in a mode (R46). -/
def withMode (c : CommandArgs) (m : Mode) : Descriptor :=
  { addr := c.addr, mode := modeCode m, start := c.start, count := c.count, data := c.data }

/-- `cmd_check(d)` (R73), in its order; the span is summed without wrap. -/
def cmdCheck (d : Descriptor) : Status :=
  if modeOf d.mode = none then .errUnsupportedMode
  else if unknownReg d.start then .errUnknownRegister
  else if d.count = 0#8 ∨ Config.nreg < d.start.toNat + d.count.toNat then .errSpan
  else if d.mode = 0x06#8 ∧ d.count ≠ 1#8 then .errSpan
  else if d.mode = 0x06#8 ∧ d.data.length ≠ 1 then .errData
  else if d.mode = 0x10#8 ∧ d.data.length ≠ d.count.toNat then .errData
  else .ok

/-- `DATA[0]` (R76). -/
def firstData (d : Descriptor) : Word := d.data.headD 0#16

end Sys2Proof.Machine
end

