-- ==== Sys2Proof/Machine/Frames.lean ====
section
/-! DEFINITION. What ENCODE builds for each mode (R74 to R80). -/

namespace Sys2Proof.Machine

/-- A request frame, its expected-response template and the template's mask (R74). -/
structure Built where
  frame    : List Byte
  template : List Byte
  tmask    : List Bool
deriving DecidableEq, Repr

/-- The READ body (R75). -/
def readBody (d : Descriptor) : Built :=
  { frame := [d.addr, 0x03#8] ++ be16 (addrOf d.start) ++ be16 (zext16 d.count)
    template := [d.addr, 0x03#8, byteOf (2 * d.count.toNat)]
      ++ List.replicate (2 * d.count.toNat) Config.placeholder
    tmask := [true, true, true] ++ List.replicate (2 * d.count.toNat) false }

/-- The SINGLE_WRITE body (R76): the device echoes the write. -/
def singleWriteBody (d : Descriptor) : Built :=
  let f := [d.addr, 0x06#8] ++ be16 (addrOf d.start) ++ be16 (firstData d)
  { frame := f, template := f, tmask := List.replicate 6 true }

/-- The MULTIPLE_WRITE body (R77). -/
def multipleWriteBody (d : Descriptor) : Built :=
  { frame := [d.addr, 0x10#8] ++ be16 (addrOf d.start) ++ be16 (zext16 d.count)
      ++ [byteOf (2 * d.count.toNat)] ++ wordBytes d.data
    template := [d.addr, 0x10#8] ++ be16 (addrOf d.start) ++ be16 (zext16 d.count)
    tmask := List.replicate 6 true }

/-- Whether a correct response's CRC is known beforehand: not for READ, whose CRC covers unknown values (R79). -/
def crcFixed : Mode → Bool
  | .read => false
  | .singleWrite => true
  | .multipleWrite => true

/-- `body(MODE)` (R74). -/
def body (m : Mode) (d : Descriptor) : Built :=
  match m with
  | .read => readBody d
  | .singleWrite => singleWriteBody d
  | .multipleWrite => multipleWriteBody d

/-- The frame and the template, each ending in its own CRC (R78), with the full mask (R79). -/
def build (m : Mode) (d : Descriptor) : Built :=
  let b := body m d
  { frame := signed b.frame
    template := signed b.template
    tmask := b.tmask ++ [crcFixed m, crcFixed m] }

end Sys2Proof.Machine
end

