-- ==== Sys2Proof/Machine/Flags.lean ====
section
/-! DEFINITION. Status codes and classes (R93, R94) and the one-bit results (R14, R87). -/

namespace Sys2Proof.Machine

/-- The code of a status (R93). -/
def statusCode : Status → Byte
  | .ok => 0x00#8
  | .errUnknownRegister => 0x01#8
  | .errUnsupportedMode => 0x02#8
  | .errSpan => 0x03#8
  | .errData => 0x04#8
  | .integrityFail => 0x05#8
  | .errFormat => 0x06#8
  | .errUnsupportedOp => 0x07#8

/-- The misuse class (R94). -/
def isMisuse : Status → Bool
  | .ok => false
  | .errUnknownRegister => true
  | .errUnsupportedMode => true
  | .errSpan => true
  | .errData => true
  | .integrityFail => false
  | .errFormat => false
  | .errUnsupportedOp => true

/-- The device class (R94). -/
def isDeviceFault : Status → Bool
  | .integrityFail => true
  | .errFormat => true
  | .ok => false
  | .errUnknownRegister => false
  | .errUnsupportedMode => false
  | .errSpan => false
  | .errData => false
  | .errUnsupportedOp => false

/-- Whether a response has the template's length and equals it wherever the mask is set (R87). -/
def matchesTemplate : List Byte → List Bool → List Byte → Bool
  | [], _, [] => true
  | t :: ts, m :: ms, r :: rs => (!m || r == t) && matchesTemplate ts ms rs
  | _, _, _ => false

/-- `tmatch(d, r)` for a command in mode `m` (R87). -/
def tmatch (m : Mode) (d : Descriptor) (r : List Byte) : Bool :=
  matchesTemplate (build m d).template (build m d).tmask r

end Sys2Proof.Machine
end

