-- ==== Sys2Proof/Machine/Ops.lean ====
section
/-! DEFINITION. The operations every meaning is made of: writing `ACC`, and ending a request (R9, R24, R95). The block
has no memory, no trap entry and no trap return (R15, R92, R99): `raise` is all that an error does. -/

namespace Sys2Proof.Machine

/-- The outcome of performing one instruction. -/
abbrev Result := Host.Outcome State Fault Refusal

/-- The response with every field at its default (R24); for `crcBytes` see log entry 7. -/
def blank : Response :=
  { status := .ok, misuse := false, crc := 0#16, crcBytes := [], crcMatch := false, frame := [], template := [],
    tmask := [], expLen := 0#8, valid := false, tmatch := false, address := 0#8, mode := 0#8, count := 0#8,
    regs := [], values := [], lkAddr := 0#16, lkPrec := 0, lkHasRange := false, lkMin := 0#16, lkMax := 0#16,
    lkReg := 0#8, lkOrd := 0#8 }

/-- `ACC <- v` (R9). -/
def setAcc (s : State) (v : Word) : State := { s with acc := v }

/-- The end of every request: the MISUSE rule (R95), then the response, whose `MISUSE` is the flag after it (R23). -/
def respond (s : State) (st : Status) (r : Response) : State :=
  { s with
    misuse := s.misuse || isMisuse st
    response := some { r with status := st, misuse := s.misuse || isMisuse st } }

/-- `finish` (R9): the request ends with status OK. -/
def finish (s : State) (r : Response) : Result := .next (respond s .ok r)

/-- `raise st` (R9): the request ends at once with status `st`, keeping the fields `r` has set; `ACC` stays (R96). -/
def raise (s : State) (st : Status) (r : Response) : Result := .next (respond s st r)

/-- The reset event (R104): it returns no response (R101). -/
def resetBlock (s : State) : State :=
  { s with acc := 0xFFFF#16, misuse := false, response := none }

/-- The fields `CRC` and `CRC_BYTES` (R23). -/
def crcResult (c : Word) : Response := { blank with crc := c, crcBytes := le16 c }

end Sys2Proof.Machine
end

