-- ==== Sys2Proof/Machine/CatalogUnit.lean ====
section
/-! DEFINITION. The meanings of the register catalog's operations (R60 to R63). -/

namespace Sys2Proof.Machine

/-- The response fields of LOOKUP_NAME for a known register (R60); the range fields stay 0 where none is declared. -/
def lookupResult (r : Byte) (e : CatalogEntry) : Response :=
  let rsp := { blank with lkAddr := addrOf r, lkPrec := precOf r }
  match e.range with
  | some (lo, hi) => { rsp with lkHasRange := true, lkMin := lo, lkMax := hi }
  | none => rsp

/-- LOOKUP_NAME (R60): an identifier with no entry is 13 to 255 (R19). -/
def execLookupName (r : Byte) (s : State) : Result :=
  match entryOf r with
  | some e => finish s (lookupResult r e)
  | none => raise s .errUnknownRegister blank

/-- LOOKUP_ADDR (R61). -/
def execLookupAddr (a : Word) (s : State) : Result :=
  match regOfAddr a with
  | some r => finish s { blank with lkReg := r }
  | none => raise s .errUnknownRegister blank

/-- ORDER_INDEX (R62): the ordinal is the identifier (R19). -/
def execOrderIndex (r : Byte) (s : State) : Result :=
  if unknownReg r then raise s .errUnknownRegister blank else finish s { blank with lkOrd := r }

/-- RESOLVE_WINDOW (R63): the start is checked first, and the span is summed without wrap. -/
def execResolveWindow (r c : Byte) (s : State) : Result :=
  if unknownReg r then raise s .errUnknownRegister blank
  else if c = 0#8 ∨ Config.nreg < r.toNat + c.toNat then raise s .errSpan blank
  else finish s { blank with count := c, regs := window r c.toNat }

end Sys2Proof.Machine
end

