-- ==== Sys2Proof/Machine/CrcEngine.lean ====
section
/-! DEFINITION. The meanings of the CRC16 Engine's operations (R67 to R71). -/

namespace Sys2Proof.Machine

/-- `ACC <- v`, reported in `CRC` and `CRC_BYTES` (R67 to R69). -/
def loadAcc (s : State) (v : Word) : Result := finish (setAcc s v) (crcResult v)

/-- CRC_INIT (R67). -/
def execCrcInit (s : State) : Result := loadAcc s Config.crcInitial

/-- CRC_UPDATE (R68). -/
def execCrcUpdate (b : Byte) (s : State) : Result := loadAcc s (crcStep s.acc b)

/-- CRC_BLOCK (R69). -/
def execCrcBlock (buf : List Byte) (s : State) : Result := loadAcc s (crc16 buf)

/-- CRC_VERIFY (R70): `ACC` is not touched, and a mismatch keeps the `CRC` fields it has set. -/
def execCrcVerify (buf : List Byte) (s : State) : Result :=
  if buf.length < 2 then raise s .integrityFail blank
  else if bodyCrc buf = crcField buf then finish s { crcResult (bodyCrc buf) with crcMatch := true }
  else raise s .integrityFail (crcResult (bodyCrc buf))

/-- CRC_READ (R71). -/
def execCrcRead (s : State) : Result := finish s (crcResult s.acc)

end Sys2Proof.Machine
end

