-- ==== Sys2Proof/WellFormed.lean ====
section
/-! DEFINITION. Which terms of `Instr` an encoding can carry. -/

namespace Sys2Proof

/-- A buffer operand has at most `MAX_BUF` bytes (R42, R45, R48). -/
def bufferOk (b : List Byte) : Bool := b.length ≤ Config.maxBuf

/-- A command carries at most `MAX_REGS` data values (R42, R46). -/
def dataOk (vs : List Word) : Bool := vs.length ≤ Config.maxRegs

/-- A span of registers inside the catalog (R63, R73). -/
def spanOk (start count : Byte) : Bool :=
  start.toNat < Config.nreg && count != 0#8 && start.toNat + count.toNat ≤ Config.nreg

/-- What the encodings of R42 to R57 can carry. For a request form: what ENCODE accepts in that mode (R73), since
ENCODE alone produces those frames. For a response form: the limits of the DECODE request that brings it (R48). -/
def Instr.wf : Instr → Bool
  | .crcInit => true
  | .crcUpdate _ => true
  | .crcBlock buf => bufferOk buf
  | .crcVerify buf => bufferOk buf
  | .crcRead => true
  | .encode d => dataOk d.data
  | .decode d rsp => dataOk d.data && bufferOk rsp
  | .lookupName _ => true
  | .lookupAddr _ => true
  | .orderIndex _ => true
  | .resolveWindow _ _ => true
  | .frameReadRequest _ start count => spanOk start count
  | .frameSingleWriteRequest c => spanOk c.start c.count && c.count == 1#8 && c.data.length == 1
  | .frameMultipleWriteRequest c => spanOk c.start c.count && c.data.length == c.count.toNat
  | .frameReadResponse c _ values _ => dataOk c.data && 5 + 2 * values.length ≤ Config.maxBuf
  | .frameSingleWriteResponse c _ _ _ _ => dataOk c.data
  | .frameMultipleWriteResponse c _ _ _ _ => dataOk c.data

end Sys2Proof
end

