-- ==== Sys2Proof/Decode.lean ====
section
/-! DEFINITION. The decoders and the encoder. The request encoding (R41 to R51) and the wire encoding (R52 to R58) are
kept apart (R41): `decode` reads requests, `decodeRequestFrame` and `decodeResponseFrame` read wire frames, and
`encode` writes both. -/

namespace Sys2Proof

open Machine

/-- The eleven defined operation codes (R43). -/
inductive OpCode where
  | crcInit | crcUpdate | crcBlock | crcVerify | crcRead
  | encode | decode
  | lookupName | lookupAddr | orderIndex | resolveWindow
deriving DecidableEq, Repr

/-- The operation code map (R43). -/
def opTable : List (Byte × OpCode) := [
  (0x01#8, .crcInit), (0x02#8, .crcUpdate), (0x03#8, .crcBlock), (0x04#8, .crcVerify), (0x05#8, .crcRead),
  (0x10#8, .encode), (0x20#8, .decode),
  (0x30#8, .lookupName), (0x31#8, .lookupAddr), (0x32#8, .orderIndex), (0x33#8, .resolveWindow)]

/-- The operation a code names; none for every other value (R50). -/
def opOf (b : Byte) : Option OpCode := (opTable.find? fun row => row.1 == b).map Prod.snd

/-- Why the request parse fails (R51). -/
inductive ParseError where
  /-- `len(q) = 0`. -/
  | emptyRequest
  /-- The operation code is not defined (R50). -/
  | unsupportedOp
  /-- The length is not the one the layout implies. -/
  | wrongLength
  /-- A length field exceeds `MAX_BUF` or `MAX_REGS`. -/
  | overLimit
deriving DecidableEq, Repr

/-- The status a failed parse ends in (R42, R50, R51). -/
def parseStatus : ParseError → Status
  | .emptyRequest => .errData
  | .unsupportedOp => .errUnsupportedOp
  | .wrongLength => .errData
  | .overLimit => .errData

/-- `NDATA` of a request that carries a descriptor (R46). -/
def ndataOf (q : List Byte) : Nat := (byteAt q 5).toNat

/-- The descriptor in request bytes 1 to 5 + 2 × NDATA (R46). -/
def descriptorOf (q : List Byte) : Descriptor :=
  { addr := byteAt q 1, mode := byteAt q 2, start := byteAt q 3, count := byteAt q 4,
    data := readWords q 6 (ndataOf q) }

/-- Where DECODE's response length stands: `d` of R48. -/
def rspOffset (q : List Byte) : Nat := 6 + 2 * ndataOf q

/-- A layout of fixed length (R44, R49). -/
def fixedLayout (len : Nat) (i : Instr) (q : List Byte) : Except ParseError Instr :=
  if q.length = len then .ok i else .error .wrongLength

/-- The layout of CRC_BLOCK and CRC_VERIFY (R45, R51). -/
def bufferLayout (mk : List Byte → Instr) (q : List Byte) : Except ParseError Instr :=
  if q.length < 3 then .error .wrongLength
  else if Config.maxBuf < (rdBe16 q 1).toNat then .error .overLimit
  else if q.length ≠ 3 + (rdBe16 q 1).toNat then .error .wrongLength
  else .ok (mk (slice q 3 q.length))

/-- The layout of ENCODE (R47, R51). -/
def encodeLayout (q : List Byte) : Except ParseError Instr :=
  if q.length < 6 then .error .wrongLength
  else if Config.maxRegs < ndataOf q then .error .overLimit
  else if q.length ≠ 6 + 2 * ndataOf q then .error .wrongLength
  else .ok (.encode (descriptorOf q))

/-- The layout of DECODE (R48, R51). -/
def decodeLayout (q : List Byte) : Except ParseError Instr :=
  if q.length < 6 then .error .wrongLength
  else if Config.maxRegs < ndataOf q then .error .overLimit
  else if q.length < rspOffset q + 2 then .error .wrongLength
  else if Config.maxBuf < (rdBe16 q (rspOffset q)).toNat then .error .overLimit
  else if q.length ≠ rspOffset q + 2 + (rdBe16 q (rspOffset q)).toNat then .error .wrongLength
  else .ok (.decode (descriptorOf q) (slice q (rspOffset q + 2) q.length))

/-- The layout of each operation (R44 to R49). -/
def decodeOp (op : OpCode) (q : List Byte) : Except ParseError Instr :=
  match op with
  | .crcInit => fixedLayout 1 .crcInit q
  | .crcUpdate => fixedLayout 2 (.crcUpdate (byteAt q 1)) q
  | .crcBlock => bufferLayout .crcBlock q
  | .crcVerify => bufferLayout .crcVerify q
  | .crcRead => fixedLayout 1 .crcRead q
  | .encode => encodeLayout q
  | .decode => decodeLayout q
  | .lookupName => fixedLayout 2 (.lookupName (byteAt q 1)) q
  | .lookupAddr => fixedLayout 3 (.lookupAddr (rdBe16 q 1)) q
  | .orderIndex => fixedLayout 2 (.orderIndex (byteAt q 1)) q
  | .resolveWindow => fixedLayout 3 (.resolveWindow (byteAt q 1) (byteAt q 2)) q

/-- The request parse (R51), total on any bytes; the first failing step decides. -/
def decode (q : List Byte) : Except ParseError Instr :=
  match q with
  | [] => .error .emptyRequest
  | b :: _ =>
    match opOf b with
    | none => .error .unsupportedOp
    | some op => decodeOp op q

/-- Why bytes are not a wire frame of the form looked for (R52 to R58). -/
inductive FrameError where
  /-- Too short to hold the fields that determine the length. -/
  | tooShort
  /-- The length is not the one the frame's own fields give (R58). -/
  | wrongLength
  /-- The trailing CRC does not match (R52). -/
  | badCrc
  /-- The function code is not the form's (R53). -/
  | wrongFunction
  /-- The register address names no register (R30). -/
  | unknownRegister
  /-- The count is 0 or the window runs past VERSION (R73): ENCODE produces no such frame. -/
  | badSpan
  /-- The byte count is odd, or not twice the count (R56, R57). -/
  | badByteCount
deriving DecidableEq, Repr

/-- A READ request frame (R54), its CRC already checked. -/
def readFrameFields (f : List Byte) (start : Byte) : Except FrameError Instr :=
  if f.length ≠ 8 then .error .wrongLength
  else if rdBe16 f 4 = 0#16 ∨ Config.nreg < start.toNat + (rdBe16 f 4).toNat then .error .badSpan
  else .ok (.frameReadRequest (byteAt f 0) start (loByte (rdBe16 f 4)))

/-- A SINGLE_WRITE request frame (R55), its CRC already checked. -/
def singleWriteFrameFields (f : List Byte) (start : Byte) : Except FrameError Instr :=
  if f.length ≠ 8 then .error .wrongLength
  else .ok (.frameSingleWriteRequest
    { addr := byteAt f 0, start := start, count := 1#8, data := [rdBe16 f 4] })

/-- A MULTIPLE_WRITE request frame (R56, R58), its CRC already checked. -/
def multipleWriteFrameFields (f : List Byte) (start : Byte) : Except FrameError Instr :=
  if f.length ≠ 9 + (byteAt f 6).toNat then .error .wrongLength
  else if rdBe16 f 4 = 0#16 ∨ Config.nreg < start.toNat + (rdBe16 f 4).toNat then .error .badSpan
  else if (byteAt f 6).toNat ≠ 2 * (rdBe16 f 4).toNat then .error .badByteCount
  else .ok (.frameMultipleWriteRequest
    { addr := byteAt f 0, start := start, count := loByte (rdBe16 f 4),
      data := readWords f 7 (rdBe16 f 4).toNat })

/-- The request frame the bytes are (R52 to R56, R58): the function code in byte 1 chooses the form. -/
def decodeRequestFrame (f : List Byte) : Except FrameError Instr :=
  if f.length < 8 then .error .tooShort
  else if !crcOk f then .error .badCrc
  else match modeOf (byteAt f 1), regOfAddr (rdBe16 f 2) with
    | none, _ => .error .wrongFunction
    | some _, none => .error .unknownRegister
    | some .read, some start => readFrameFields f start
    | some .singleWrite, some start => singleWriteFrameFields f start
    | some .multipleWrite, some start => multipleWriteFrameFields f start

/-- A READ response frame (R57): `2k` value bytes, then the CRC field. -/
def readResponseFields (cmd : CommandArgs) (r : List Byte) : Except FrameError Instr :=
  if r.length < 5 then .error .tooShort
  else if byteAt r 1 ≠ 0x03#8 then .error .wrongFunction
  else if (byteAt r 2).toNat % 2 ≠ 0 then .error .badByteCount
  else if r.length ≠ 5 + (byteAt r 2).toNat then .error .wrongLength
  else .ok (.frameReadResponse cmd (byteAt r 0) (readWords r 3 ((byteAt r 2).toNat / 2)) (crcField r))

/-- A SINGLE_WRITE response frame (R57). -/
def singleWriteResponseFields (cmd : CommandArgs) (r : List Byte) : Except FrameError Instr :=
  if r.length ≠ 8 then .error .wrongLength
  else if byteAt r 1 ≠ 0x06#8 then .error .wrongFunction
  else .ok (.frameSingleWriteResponse cmd (byteAt r 0) (rdBe16 r 2) (rdBe16 r 4) (crcField r))

/-- A MULTIPLE_WRITE response frame (R57). -/
def multipleWriteResponseFields (cmd : CommandArgs) (r : List Byte) : Except FrameError Instr :=
  if r.length ≠ 8 then .error .wrongLength
  else if byteAt r 1 ≠ 0x10#8 then .error .wrongFunction
  else .ok (.frameMultipleWriteResponse cmd (byteAt r 0) (rdBe16 r 2) (rdBe16 r 4) (crcField r))

/-- The response frame the bytes are: the layout is chosen by the mode of the command it answers (R53, R58). -/
def decodeResponseFrame (m : Mode) (cmd : CommandArgs) (r : List Byte) : Except FrameError Instr :=
  match m with
  | .read => readResponseFields cmd r
  | .singleWrite => singleWriteResponseFields cmd r
  | .multipleWrite => multipleWriteResponseFields cmd r

/-- A descriptor's bytes (R46). -/
def descriptorBytes (d : Descriptor) : List Byte :=
  [d.addr, d.mode, d.start, d.count, byteOf d.data.length] ++ wordBytes d.data

/-- A buffer operand's bytes: its length, then itself (R45, R48). -/
def bufferBytes (b : List Byte) : List Byte := be16 (wordOf b.length) ++ b

/-- The READ request frame (R54). -/
def readRequestFrame (addr start count : Byte) : List Byte :=
  signed ([addr, 0x03#8] ++ be16 (zext16 start) ++ be16 (zext16 count))

/-- The SINGLE_WRITE request frame (R55). -/
def singleWriteRequestFrame (c : CommandArgs) : List Byte :=
  signed ([c.addr, 0x06#8] ++ be16 (zext16 c.start) ++ be16 (c.data.headD 0#16))

/-- The MULTIPLE_WRITE request frame (R56). -/
def multipleWriteRequestFrame (c : CommandArgs) : List Byte :=
  signed ([c.addr, 0x10#8] ++ be16 (zext16 c.start) ++ be16 (zext16 c.count)
    ++ [byteOf (2 * c.count.toNat)] ++ wordBytes c.data)

/-- The READ response frame (R57), with the CRC field it carries. -/
def readResponseFrame (address : Byte) (values : List Word) (crc : Word) : List Byte :=
  [address, 0x03#8, byteOf (2 * values.length)] ++ wordBytes values ++ le16 crc

/-- The two eight-byte response frames (R57), with the CRC field they carry. -/
def echoFrame (address function : Byte) (first second crc : Word) : List Byte :=
  [address, function] ++ be16 first ++ be16 second ++ le16 crc

/-- The bytes of an instruction: a request (R43 to R49), or a wire frame (R54 to R57). A response frame's command is not
on the wire (R106). -/
def encode : Instr → List Byte
  | .crcInit => [0x01#8]
  | .crcUpdate b => [0x02#8, b]
  | .crcBlock buf => 0x03#8 :: bufferBytes buf
  | .crcVerify buf => 0x04#8 :: bufferBytes buf
  | .crcRead => [0x05#8]
  | .encode d => 0x10#8 :: descriptorBytes d
  | .decode d rsp => 0x20#8 :: (descriptorBytes d ++ bufferBytes rsp)
  | .lookupName r => [0x30#8, r]
  | .lookupAddr a => 0x31#8 :: be16 a
  | .orderIndex r => [0x32#8, r]
  | .resolveWindow r count => [0x33#8, r, count]
  | .frameReadRequest addr start count => readRequestFrame addr start count
  | .frameSingleWriteRequest c => singleWriteRequestFrame c
  | .frameMultipleWriteRequest c => multipleWriteRequestFrame c
  | .frameReadResponse _ address values crc => readResponseFrame address values crc
  | .frameSingleWriteResponse _ address regAddr value crc => echoFrame address 0x06#8 regAddr value crc
  | .frameMultipleWriteResponse _ address startAddr count crc => echoFrame address 0x10#8 startAddr count crc

/-- Whether an instruction is one of the eleven request operations (R43). -/
def isRequest : Instr → Bool
  | .crcInit | .crcUpdate _ | .crcBlock _ | .crcVerify _ | .crcRead => true
  | .encode _ | .decode _ _ => true
  | .lookupName _ | .lookupAddr _ | .orderIndex _ | .resolveWindow _ _ => true
  | .frameReadRequest _ _ _ | .frameSingleWriteRequest _ | .frameMultipleWriteRequest _ => false
  | .frameReadResponse _ _ _ _ | .frameSingleWriteResponse _ _ _ _ _ => false
  | .frameMultipleWriteResponse _ _ _ _ _ => false

/-- The exact length `L` a request must have, from its operation code and length fields (R42, R43). -/
def impliedLength (op : OpCode) (q : List Byte) : Nat :=
  match op with
  | .crcInit | .crcRead => 1
  | .crcUpdate | .lookupName | .orderIndex => 2
  | .lookupAddr | .resolveWindow => 3
  | .crcBlock | .crcVerify => 3 + (rdBe16 q 1).toNat
  | .encode => 6 + 2 * ndataOf q
  | .decode => rspOffset q + 2 + (rdBe16 q (rspOffset q)).toNat

/-- `n` bytes of the number `w`, bits 7..0 first. -/
def bytesOfNat : Nat → Nat → List Byte
  | 0, _ => []
  | n + 1, w => byteOf w :: bytesOfNat n (w / 256)

/-- The request that the opcode table's `nbits` bits `w` begin, every byte above them 0, at the length its layout
implies; where the code is not defined, the table's bytes alone (log entry 9). The longest request has
8 + 2 × 13 + 256 bytes. -/
def tableRequest (nbits w : Nat) : List Byte :=
  let laid := bytesOfNat 290 (w % 2 ^ nbits)
  match opOf (byteAt laid 0) with
  | some op => laid.take (impliedLength op laid)
  | none => laid.take (nbits / 8)

/-- The instruction the decoder reads from the opcode table's bits (host interface). -/
def decodeTableWord (nbits w : Nat) : Option Instr :=
  match decode (tableRequest nbits w) with
  | .ok i => some i
  | .error _ => none

end Sys2Proof
end

