-- ==== Sys2Proof/Machine/Decoder.lean ====
section
/-! DEFINITION. The meanings of DECODE and of the three response-frame forms it checks (R82 to R89). -/

namespace Sys2Proof.Machine

/-- What a response decodes to: the registers and their values (R82). -/
abbrev Decoded := List Byte × List Word

/-- DECODE's structure checks and extraction for READ (R84). The count comes from the response's byte count. -/
def decodeRead (d : Descriptor) (r : List Byte) : Option Decoded :=
  let bc := (byteAt r 2).toNat
  if r.length < 5 then none
  else if bc % 2 ≠ 0 ∨ r.length ≠ 5 + bc then none
  else if Config.nreg < d.start.toNat + bc / 2 then none
  else some (window d.start (bc / 2), readWords r 3 (bc / 2))

/-- For SINGLE_WRITE (R85): register and value come from the echo. -/
def decodeSingleWrite (r : List Byte) : Option Decoded :=
  if r.length ≠ 8 then none
  else match regOfAddr (rdBe16 r 2) with
    | some reg => some ([reg], [rdBe16 r 4])
    | none => none

/-- For MULTIPLE_WRITE (R86): the echoed span must be the command's, and the values are the command's. -/
def decodeMultipleWrite (d : Descriptor) (r : List Byte) : Option Decoded :=
  if r.length ≠ 8 then none
  else if rdBe16 r 2 ≠ addrOf d.start ∨ rdBe16 r 4 ≠ zext16 d.count then none
  else some (window d.start d.count.toNat, d.data.take d.count.toNat)

/-- `per_mode(d, r)` (R82); none is ERR_FORMAT, also for an unknown echoed register (R88). -/
def perMode (m : Mode) (d : Descriptor) (r : List Byte) : Option Decoded :=
  match m with
  | .read => decodeRead d r
  | .singleWrite => decodeSingleWrite r
  | .multipleWrite => decodeMultipleWrite d r

/-- A failed DECODE sets `MODE` and nothing else (R83). -/
def decodeFailure (d : Descriptor) : Response := { blank with mode := d.mode }

/-- The response fields of a successful DECODE (R82), its tags taken from the command (R89). -/
def decodeResult (m : Mode) (d : Descriptor) (r : List Byte) (x : Decoded) : Response :=
  { blank with
    mode := d.mode, valid := true, address := d.addr, count := byteOf x.1.length, regs := x.1, values := x.2,
    tmatch := tmatch m d r }

/-- R82: the CRC first, then the command, then the response's structure (R83, R97). -/
def decodeResponse (d : Descriptor) (r : List Byte) (s : State) : Result :=
  if !crcOk r then raise s .integrityFail (decodeFailure d)
  else if cmdCheck d = .ok then
    match modeOf d.mode with
    | some m =>
      match perMode m d r with
      | some x => finish s (decodeResult m d r x)
      | none => raise s .errFormat (decodeFailure d)
    | none => raise s .errUnsupportedMode (decodeFailure d)
  else raise s (cmdCheck d) (decodeFailure d)

/-- DECODE (R82). -/
def execDecode (d : Descriptor) (r : List Byte) (s : State) : Result := decodeResponse d r s

/-- FRAME_READ_RESPONSE: DECODE of such a frame against a READ command (R84). -/
def execFrameReadResponse (c : CommandArgs) (address : Byte) (values : List Word) (crc : Word) (s : State) : Result :=
  decodeResponse (withMode c .read) (readResponseFrame address values crc) s

/-- FRAME_SINGLE_WRITE_RESPONSE: DECODE of such a frame against a SINGLE_WRITE command (R85). -/
def execFrameSingleWriteResponse (c : CommandArgs) (address : Byte) (regAddr value crc : Word) (s : State) : Result :=
  decodeResponse (withMode c .singleWrite) (echoFrame address 0x06#8 regAddr value crc) s

/-- FRAME_MULTIPLE_WRITE_RESPONSE: DECODE of such a frame against a MULTIPLE_WRITE command (R86). -/
def execFrameMultipleWriteResponse (c : CommandArgs) (address : Byte) (startAddr count crc : Word) (s : State) : Result :=
  decodeResponse (withMode c .multipleWrite) (echoFrame address 0x10#8 startAddr count crc) s

end Sys2Proof.Machine
end

