-- ==== Sys2Proof/Machine/Encoder.lean ====
section
/-! DEFINITION. The meanings of ENCODE and of the three request-frame forms it produces (R73 to R81). -/

namespace Sys2Proof.Machine

/-- The response fields of an accepted ENCODE (R74, R80). -/
def encodeResult (m : Mode) (d : Descriptor) : Response :=
  let b := build m d
  { blank with
    frame := b.frame, template := b.template, tmask := b.tmask, expLen := byteOf b.template.length }

/-- R74: the command check, then the frame and template of the command's mode. -/
def encodeCommand (d : Descriptor) (s : State) : Result :=
  if cmdCheck d = .ok then
    match modeOf d.mode with
    | some m => finish s (encodeResult m d)
    | none => raise s .errUnsupportedMode blank
  else raise s (cmdCheck d) blank

/-- ENCODE (R74). -/
def execEncode (d : Descriptor) (s : State) : Result := encodeCommand d s

/-- FRAME_READ_REQUEST: ENCODE in mode READ (R75), which uses no data. -/
def execFrameReadRequest (addr start count : Byte) (s : State) : Result :=
  encodeCommand (withMode { addr := addr, start := start, count := count, data := [] } .read) s

/-- FRAME_SINGLE_WRITE_REQUEST: ENCODE in mode SINGLE_WRITE (R76). -/
def execFrameSingleWriteRequest (c : CommandArgs) (s : State) : Result :=
  encodeCommand (withMode c .singleWrite) s

/-- FRAME_MULTIPLE_WRITE_REQUEST: ENCODE in mode MULTIPLE_WRITE (R77). -/
def execFrameMultipleWriteRequest (c : CommandArgs) (s : State) : Result :=
  encodeCommand (withMode c .multipleWrite) s

end Sys2Proof.Machine
end

