-- ==== Sys2Proof/Machine/Dispatch.lean ====
section
/-! DEFINITION. Which meaning each instruction has. -/

namespace Sys2Proof.Machine

def exec (i : Instr) (s : State) : Host.Outcome State Fault Refusal :=
  match i with
  | .crcInit => Sys2Proof.Machine.execCrcInit s
  | .crcUpdate b => Sys2Proof.Machine.execCrcUpdate b s
  | .crcBlock buf => Sys2Proof.Machine.execCrcBlock buf s
  | .crcVerify buf => Sys2Proof.Machine.execCrcVerify buf s
  | .crcRead => Sys2Proof.Machine.execCrcRead s
  | .encode d => Sys2Proof.Machine.execEncode d s
  | .decode d rsp => Sys2Proof.Machine.execDecode d rsp s
  | .lookupName r => Sys2Proof.Machine.execLookupName r s
  | .lookupAddr a => Sys2Proof.Machine.execLookupAddr a s
  | .orderIndex r => Sys2Proof.Machine.execOrderIndex r s
  | .resolveWindow r count => Sys2Proof.Machine.execResolveWindow r count s
  | .frameReadRequest addr start count => Sys2Proof.Machine.execFrameReadRequest addr start count s
  | .frameSingleWriteRequest cmd => Sys2Proof.Machine.execFrameSingleWriteRequest cmd s
  | .frameMultipleWriteRequest cmd => Sys2Proof.Machine.execFrameMultipleWriteRequest cmd s
  | .frameReadResponse cmd address values crc => Sys2Proof.Machine.execFrameReadResponse cmd address values crc s
  | .frameSingleWriteResponse cmd address regAddr value crc => Sys2Proof.Machine.execFrameSingleWriteResponse cmd address regAddr value crc s
  | .frameMultipleWriteResponse cmd address startAddr count crc => Sys2Proof.Machine.execFrameMultipleWriteResponse cmd address startAddr count crc s

end Sys2Proof.Machine
end

