-- ==== Sys2Proof/Machine/Step.lean ====
section
/-! DEFINITION. One step: the next host event, performed whole (R11, R39). -/

namespace Sys2Proof.Machine

/-- One request (R11, R51): parsed, then performed; a request the parse refuses ends in the parse's status (R42, R50). -/
def performRequest (q : List Byte) (s : State) : Host.Outcome State Fault Refusal :=
  match decode q with
  | .ok i => exec i s
  | .error e => raise s (parseStatus e) blank

/-- One step. With no input left the block is idle (R11, R101; log entry 2). -/
def step (s : State) : Host.Outcome State Fault Refusal :=
  match s.inputs with
  | [] => .next s
  | .reset :: rest => .next (resetBlock { s with inputs := rest })
  | .request q :: rest => performRequest q { s with inputs := rest }

/-- `s` with the instruction of the opcode table's bits presented as the host's next request (log entry 5). -/
def State.withFetchWord (s : State) (nbits w : Nat) : State :=
  { s with inputs := .request (tableRequest nbits w) :: s.inputs }

end Sys2Proof.Machine
end

