-- ==== Sys2Proof/Machine/Device.lean ====
section
/-! DEFINITION. The response a correct device gives (R90): defined for testing and proof, not an operation. -/

namespace Sys2Proof.Machine

/-- `g` of R90: the response without its CRC. `vals` are the values a READ returns. -/
def devBody (m : Mode) (d : Descriptor) (vals : List Word) : List Byte :=
  match m with
  | .read => [d.addr, 0x03#8, byteOf (2 * d.count.toNat)] ++ wordBytes vals
  | .singleWrite => (build .singleWrite d).frame.take 6
  | .multipleWrite => [d.addr, 0x10#8] ++ be16 (addrOf d.start) ++ be16 (zext16 d.count)

/-- `dev_rsp(d, vals)` (R90). -/
def devRsp (m : Mode) (d : Descriptor) (vals : List Word) : List Byte := signed (devBody m d vals)

/-- The values DECODE reports for `dev_rsp(d, vals)` (R91 item 1). -/
def reportedValues (m : Mode) (d : Descriptor) (vals : List Word) : List Word :=
  match m with
  | .read => vals
  | .singleWrite => [firstData d]
  | .multipleWrite => d.data

/-- A byte sequence with bit `k` of byte `i` flipped (R72 item 3, R91 item 2). -/
def flipBit (b : List Byte) (i k : Nat) : List Byte := b.modify i fun x => x ^^^ BitVec.twoPow 8 k

end Sys2Proof.Machine
end

