-- ==== Sys2Proof/Machine/HostSyntax.lean ====
section
/-! DEFINITION. The host assembly syntax (R59), at the level of parsed lines (log entry 12). -/

namespace Sys2Proof.Machine

/-- `<r>`: a catalog name or a number 0 to 255 (R59). -/
inductive RegRef where
  | name (n : RegName)
  | number (r : Byte)
deriving DecidableEq, Repr

/-- `<m>`: READ, SINGLE_WRITE, MULTIPLE_WRITE, or a number (R59). -/
inductive ModeRef where
  | mode (m : Mode)
  | number (m : Byte)
deriving DecidableEq, Repr

/-- The fields of an ENCODE or DECODE line; an omitted `data=` is the empty list (R59). -/
structure CommandLine where
  addr  : Byte
  mode  : ModeRef
  start : RegRef
  count : Byte
  data  : List Word
deriving DecidableEq, Repr

/-- One line of a host program (R59): an operation or a pseudo-instruction. -/
inductive HostLine where
  | crcInit
  | crcUpdate (b : Byte)
  | crcBlock (buf : List Byte)
  | crcVerify (buf : List Byte)
  | crcRead
  | encode (c : CommandLine)
  | decode (c : CommandLine) (rsp : List Byte)
  | lookupName (r : RegRef)
  | lookupAddr (a : Word)
  | orderIndex (r : RegRef)
  | resolveWindow (r : RegRef) (count : Byte)
  /-- The pseudo-instruction READ. -/
  | read (a : Byte) (r : RegRef) (c : Byte)
  /-- The pseudo-instruction WRITE1. -/
  | write1 (a : Byte) (r : RegRef) (v : Word)
  /-- The pseudo-instruction WRITEN. -/
  | writen (a : Byte) (r : RegRef) (vs : List Word)
deriving DecidableEq, Repr

/-- The identifier a register operand stands for. -/
def regRefId : RegRef → Byte
  | .name n => regOfName n
  | .number r => r

/-- The `MODE` byte a mode operand stands for. -/
def modeRefByte : ModeRef → Byte
  | .mode m => modeCode m
  | .number m => m

/-- The descriptor a command line stands for. -/
def lineDescriptor (c : CommandLine) : Descriptor :=
  { addr := c.addr, mode := modeRefByte c.mode, start := regRefId c.start, count := c.count, data := c.data }

/-- The instruction a line stands for; the three pseudo-instructions expand to ENCODE (R59). -/
def lineInstr : HostLine → Instr
  | .crcInit => .crcInit
  | .crcUpdate b => .crcUpdate b
  | .crcBlock buf => .crcBlock buf
  | .crcVerify buf => .crcVerify buf
  | .crcRead => .crcRead
  | .encode c => .encode (lineDescriptor c)
  | .decode c rsp => .decode (lineDescriptor c) rsp
  | .lookupName r => .lookupName (regRefId r)
  | .lookupAddr a => .lookupAddr a
  | .orderIndex r => .orderIndex (regRefId r)
  | .resolveWindow r count => .resolveWindow (regRefId r) count
  | .read a r c => .encode { addr := a, mode := modeCode .read, start := regRefId r, count := c, data := [] }
  | .write1 a r v =>
    .encode { addr := a, mode := modeCode .singleWrite, start := regRefId r, count := 1#8, data := [v] }
  | .writen a r vs =>
    .encode { addr := a, mode := modeCode .multipleWrite, start := regRefId r, count := byteOf vs.length, data := vs }

/-- The one request a line stands for (R59). -/
def assemble (l : HostLine) : List Byte := encode (lineInstr l)

/-- A host program's requests, in order (R16, R39). -/
def assembleProgram : List HostLine → List HostEvent
  | [] => []
  | l :: ls => .request (assemble l) :: assembleProgram ls

end Sys2Proof.Machine
end

