-- ==== Sys2Proof/Safety.lean ====
section
/-! DEFINITION. What the claims about the machine speak of: well-formed responses, the invariant of the response port,
which instructions write `ACC`, how requests end, and runs. -/

namespace Sys2Proof.Machine

/-- The relations between the fields of a response that R23 and R24 fix. -/
abbrev ResponseWf (r : Response) : Prop :=
  (r.crcBytes = [] ∨ r.crcBytes = le16 r.crc) ∧
  r.frame.length ≤ 35 ∧ r.template.length ≤ 31 ∧
  r.tmask.length = r.template.length ∧ r.expLen.toNat = r.template.length ∧
  r.regs.length = r.count.toNat ∧ (∀ x ∈ r.regs, x.toNat < 13) ∧
  (r.values = [] ∨ r.values.length = r.count.toNat) ∧
  (r.tmatch = true → r.valid = true) ∧
  (r.status ≠ .ok →
    r.crcMatch = false ∧ r.frame = [] ∧ r.template = [] ∧ r.valid = false ∧ r.address = 0#8 ∧ r.regs = [] ∧
    r.values = [] ∧ r.lkAddr = 0#16 ∧ r.lkHasRange = false ∧ r.lkReg = 0#8 ∧ r.lkOrd = 0#8)

/-- The response port holds a well-formed response whose `MISUSE` field is the flag (R23, R95). -/
abbrev PortInv (s : State) : Prop := ∀ r ∈ s.response, ResponseWf r ∧ r.misuse = s.misuse

/-- The instructions that write `ACC` (R13). -/
def writesAcc : Instr → Bool
  | .crcInit | .crcUpdate _ | .crcBlock _ => true
  | .crcVerify _ | .crcRead | .encode _ | .decode _ _ => false
  | .lookupName _ | .lookupAddr _ | .orderIndex _ | .resolveWindow _ _ => false
  | .frameReadRequest _ _ _ | .frameSingleWriteRequest _ | .frameMultipleWriteRequest _ => false
  | .frameReadResponse _ _ _ _ | .frameSingleWriteResponse _ _ _ _ _ => false
  | .frameMultipleWriteResponse _ _ _ _ _ => false

/-- The limits of a request's length fields (R42): `n <= MAX_BUF`, `NDATA <= MAX_REGS`. -/
abbrev limitsOk (op : OpCode) (q : List Byte) : Prop :=
  match op with
  | .crcBlock | .crcVerify => (rdBe16 q 1).toNat ≤ 256
  | .encode => ndataOf q ≤ 13
  | .decode => ndataOf q ≤ 13 ∧ (rdBe16 q (rspOffset q)).toNat ≤ 256
  | .crcInit | .crcUpdate | .crcRead | .lookupName | .lookupAddr | .orderIndex | .resolveWindow => True

/-- The state after a request that ends in a misuse status, with the response fields `r` set before (R9, R95). -/
def afterMisuse (s : State) (st : Status) (r : Response) : State :=
  { s with misuse := true, response := some { r with status := st, misuse := true } }

/-- The state after a request that ends in a device-class status, with the response fields `r` set before (R9, R95). -/
def afterDeviceFault (s : State) (st : Status) (r : Response) : State :=
  { s with response := some { r with status := st, misuse := s.misuse } }

/-- The state after a request that ends in OK and writes no state, with the response fields `r` (R9, R95). -/
def afterOk (s : State) (r : Response) : State :=
  { s with response := some { r with status := .ok, misuse := s.misuse } }

/-- `s` with `es` as what the host will present (R11, R39). -/
def presenting (s : State) (es : List HostEvent) : State := { s with inputs := es }

/-- `k` steps of the machine. -/
def runSteps (k : Nat) (s : State) : Host.Outcome State Fault Refusal := Host.Core.run Sys2Proof.core k s

end Sys2Proof.Machine
end

