-- ==== Sys2Proof/Certificates/Slice0/Obligations.lean ====
section
/-! DEFINITION. The statements for the provers, family by family. OBLIGATIONS.json says which rule each one formalises.
A statement that gives a whole next state is also its instruction's frame: every field it does not name is as before, and
every response field it does not name is at the default of R24. That the default of `crcBytes` is the empty sequence is
the model's reading of R24 (log entry 7): a statement built on `blank` that does not name `crcBytes` rests on it. The
ports `inputs` and `response` are fields of the model's own (log entry 1), and the wire-frame forms are instructions by its
choice (log entry 8). -/

open Sys2Proof Sys2Proof.Machine

/-! ### CRC16 Engine -/

/-- R67: the encoding of CRC_INIT, its whole effect, and the two-byte request that the parse refuses. -/
def Obligations.CrcInitLoadsInitialValue : Prop :=
  decode [0x01#8] = .ok .crcInit ∧
  (∀ (x : Byte) (s : State) (rest : List HostEvent), s.inputs = .request [0x01#8, x] :: rest →
    ∃ (t : State) (r : Response), step s = .next t ∧ t.response = some r ∧ r.status = .errData ∧ t.acc = s.acc) ∧
  ∀ s : State, exec .crcInit s = .next
    { s with acc := 0xFFFF#16, response := some { blank with
        status := .ok, misuse := s.misuse, crc := 0xFFFF#16, crcBytes := [0xFF#8, 0xFF#8] } }

/-- R68: the encoding of CRC_UPDATE and its whole effect. -/
def Obligations.CrcUpdateFeedsOneByte : Prop :=
  ∀ (b : Byte) (s : State), decode [0x02#8, b] = .ok (.crcUpdate b) ∧
    exec (.crcUpdate b) s = .next
      { s with acc := crcStep s.acc b, response := some { blank with
          status := .ok, misuse := s.misuse, crc := crcStep s.acc b, crcBytes := le16 (crcStep s.acc b) } }

/-- R69: CRC_BLOCK leaves the checksum of the buffer in `ACC`, and its request carries any buffer of 0 to 256 bytes. -/
def Obligations.CrcBlockChecksumsBuffer : Prop :=
  ∀ (buf : List Byte) (s : State),
    (buf.length ≤ 256 → decode ([0x03#8] ++ be16 (BitVec.ofNat 16 buf.length) ++ buf) = .ok (.crcBlock buf)) ∧
    exec (.crcBlock buf) s = .next
      { s with acc := crc16 buf, response := some { blank with
          status := .ok, misuse := s.misuse, crc := crc16 buf, crcBytes := le16 (crc16 buf) } }

/-- R70: CRC_VERIFY on a buffer cut into body and CRC field, on a mismatch, and on a buffer too short to hold one.
Model's choice: log entry 7. -/
def Obligations.CrcVerifyComparesTrailingCrc : Prop :=
  (∀ (buf : List Byte), buf.length ≤ 256 →
    decode ([0x04#8] ++ be16 (BitVec.ofNat 16 buf.length) ++ buf) = .ok (.crcVerify buf)) ∧
  (∀ (buf : List Byte) (s : State), buf.length < 2 →
    exec (.crcVerify buf) s = .next (afterDeviceFault s .integrityFail blank)) ∧
  (∀ (body : List Byte) (c : Word) (s : State), c = crc16 body →
    exec (.crcVerify (body ++ le16 c)) s = .next (afterOk s
      { blank with crc := crc16 body, crcBytes := le16 (crc16 body), crcMatch := true })) ∧
  (∀ (body : List Byte) (c : Word) (s : State), c ≠ crc16 body →
    exec (.crcVerify (body ++ le16 c)) s = .next (afterDeviceFault s .integrityFail
      { blank with crc := crc16 body, crcBytes := le16 (crc16 body) }))

/-- R71: the encoding of CRC_READ and its whole effect. -/
def Obligations.CrcReadReturnsAccumulator : Prop :=
  decode [0x05#8] = .ok .crcRead ∧
  (∀ x : Byte, decode [0x05#8, x] = .error .wrongLength) ∧
  ∀ s : State, exec .crcRead s = .next (afterOk s { blank with crc := s.acc, crcBytes := le16 s.acc })

/-- R64 and R65, written out: eight iterations, bit 0 tested before the logical shift, with 0xA001; then the loop over the
bytes from 0xFFFF. With R64's example. -/
def Obligations.CrcStepIsEightShifts : Prop :=
  (∀ (acc : Word) (b : Byte), crcStep acc b =
    (fun a : Word => if a.getLsbD 0 then (a >>> 1) ^^^ 0xA001#16 else a >>> 1)^[8] (acc ^^^ b.setWidth 16)) ∧
  (∀ s : List Byte, crc16 s = s.foldl crcStep 0xFFFF#16) ∧
  crcStep 0xFFFF#16 0x01#8 = 0x807E#16

/-- R72 item 4: the bitwise function equals the byte-wise table-driven form. The table's entry of an index is eight
iterations of R64 with 0xA001 on that index, so the polynomial constant is pinned here and not taken from the model. -/
def Obligations.CrcEqualsTableDrivenForm : Prop :=
  let entry : Byte → Word := fun index =>
    (fun a : Word => if a.getLsbD 0 then (a >>> 1) ^^^ 0xA001#16 else a >>> 1)^[8] (index.setWidth 16)
  ∀ s : List Byte,
    crc16 s = s.foldl (fun (acc : Word) b => (acc >>> 8) ^^^ entry (acc.setWidth 8 ^^^ b)) 0xFFFF#16

/-- R72 item 1 and R69: CRC_INIT, then one CRC_UPDATE per byte, leaves what CRC_BLOCK of those bytes leaves, the whole
state, for every sequence a CRC_BLOCK request carries. -/
def Obligations.CrcStreamEqualsBlock : Prop :=
  ∀ (s : State) (bytes : List Byte) (rest : List HostEvent), bytes.length ≤ 256 →
    ∃ t : State, t.acc = crc16 bytes ∧ t.inputs = rest ∧ t.misuse = s.misuse ∧
      runSteps (bytes.length + 1) (presenting s
        ([.request [0x01#8]] ++ bytes.map (fun b => .request [0x02#8, b]) ++ rest)) = .next t ∧
      step (presenting s
        (.request ([0x03#8] ++ be16 (BitVec.ofNat 16 bytes.length) ++ bytes) :: rest)) = .next t

/-- R72 item 2: a sequence followed by its CRC field has CRC 0 and passes the check. -/
def Obligations.CrcResidueIsZero : Prop :=
  ∀ s : List Byte, crc16 (s ++ le16 (crc16 s)) = 0#16 ∧ crcOk (s ++ le16 (crc16 s)) = true

/-- R72 item 3: flipping any one bit of a sequence that passes the check makes it fail, at every length. -/
def Obligations.CrcDetectsSingleBitErrors : Prop :=
  ∀ (b : List Byte) (i k : Nat), crcOk b = true → i < b.length → k < 8 → crcOk (flipBit b i k) = false

/-! ### Register catalog -/

/-- R60, with the catalog of R18 written out: addresses, ranges, precision. Model's choice: log entry 7. -/
def Obligations.LookupNameReturnsEntry : Prop :=
  (∀ r : Byte, decode [0x30#8, r] = .ok (.lookupName r)) ∧
  (∀ (r : Byte) (h : r.toNat < 13) (s : State), exec (.lookupName r) s = .next (afterOk s
    { blank with
      lkAddr := r.setWidth 16
      lkPrec := Config.prec ⟨r.toNat, h⟩
      lkHasRange := decide (r.toNat = 0 ∨ r.toNat = 1 ∨ r.toNat = 6 ∨ r.toNat = 9 ∨ r.toNat = 10)
      lkMin := 0#16
      lkMax := if r.toNat = 0 then 50#16 else if r.toNat = 1 ∨ r.toNat = 10 then 5#16
        else if r.toNat = 6 ∨ r.toNat = 9 then 1#16 else 0#16 })) ∧
  (∀ (r : Byte) (s : State), 13 ≤ r.toNat →
    exec (.lookupName r) s = .next (afterMisuse s .errUnknownRegister blank))

/-- R61: both bytes of the address are compared. Model's choice: log entry 7. -/
def Obligations.LookupAddrComparesBothBytes : Prop :=
  (∀ hi lo : Byte, decode [0x31#8, hi, lo] = .ok (.lookupAddr (hi ++ lo))) ∧
  (∀ (a : Word) (s : State), a.toNat ≤ 12 →
    exec (.lookupAddr a) s = .next (afterOk s { blank with lkReg := a.setWidth 8 })) ∧
  (∀ (a : Word) (s : State), 12 < a.toNat →
    exec (.lookupAddr a) s = .next (afterMisuse s .errUnknownRegister blank))

/-- R62. Model's choice: log entry 7. -/
def Obligations.OrderIndexReturnsOrdinal : Prop :=
  (∀ r : Byte, decode [0x32#8, r] = .ok (.orderIndex r)) ∧
  (∀ (r : Byte) (s : State), r.toNat < 13 →
    exec (.orderIndex r) s = .next (afterOk s { blank with lkOrd := r })) ∧
  (∀ (r : Byte) (s : State), 13 ≤ r.toNat →
    exec (.orderIndex r) s = .next (afterMisuse s .errUnknownRegister blank))

/-- R63: the window is `count` consecutive identifiers inside the catalog, and never wraps.
Model's choice: log entry 7. -/
def Obligations.ResolveWindowStaysInCatalog : Prop :=
  (∀ r c : Byte, decode [0x33#8, r, c] = .ok (.resolveWindow r c)) ∧
  (∀ (r c : Byte) (s : State), 0 < c.toNat → r.toNat + c.toNat ≤ 13 →
    exec (.resolveWindow r c) s = .next (afterOk s
      { blank with count := c, regs := (List.range' r.toNat c.toNat).map (BitVec.ofNat 8) })) ∧
  (∀ (r c : Byte) (s : State), r.toNat < 13 → (c.toNat = 0 ∨ 13 < r.toNat + c.toNat) →
    exec (.resolveWindow r c) s = .next (afterMisuse s .errSpan blank)) ∧
  (∀ (r c : Byte) (s : State), 13 ≤ r.toNat →
    exec (.resolveWindow r c) s = .next (afterMisuse s .errUnknownRegister blank))

/-- R19: which values name a register, the two maps' inverse relation, and the ordinal of a register. -/
def Obligations.CatalogMapsAreInverse : Prop :=
  (∀ r : Byte, r.toNat < 13 → addrOf r = r.setWidth 16 ∧ regOfAddr (addrOf r) = some r ∧ (entryOf r).isSome = true) ∧
  (∀ r : Byte, 13 ≤ r.toNat → entryOf r = none) ∧
  (∀ (a : Word) (r : Byte), regOfAddr a = some r ↔ a.toNat ≤ 0x000C ∧ addrOf r = a ∧ r.toNat < 13) ∧
  (∀ (r : Byte) (s : State), r.toNat < 13 →
    ∃ (t : State) (p : Response), exec (.orderIndex r) s = .next t ∧ t.response = some p ∧ p.lkOrd = r) ∧
  (∀ (r : Byte) (s : State), 13 ≤ r.toNat →
    ∃ (t : State) (p : Response), exec (.orderIndex r) s = .next t ∧ t.response = some p ∧
      p.status = .errUnknownRegister)

/-! ### Frame Codec: ENCODE and the request-frame forms -/

/-- R75 with R54: what ENCODE of a READ command returns, and that the request-frame form does the same.
Model's choice: log entries 7 and 8. -/
def Obligations.EncodeReadBuildsFrame : Prop :=
  ∀ (addr start count : Byte) (data : List Word) (s : State),
    start.toNat < 13 → 0 < count.toNat → start.toNat + count.toNat ≤ 13 →
    let f := [addr, 0x03#8] ++ be16 (start.setWidth 16) ++ be16 (count.setWidth 16)
    let t := [addr, 0x03#8, BitVec.ofNat 8 (2 * count.toNat)] ++ List.replicate (2 * count.toNat) 0x00#8
    let after := afterOk s { blank with
      frame := f ++ le16 (crc16 f)
      template := t ++ le16 (crc16 t)
      tmask := [true, true, true] ++ List.replicate (2 * count.toNat) false ++ [false, false]
      expLen := BitVec.ofNat 8 (5 + 2 * count.toNat) }
    exec (.encode { addr := addr, mode := 0x03#8, start := start, count := count, data := data }) s = .next after ∧
    exec (.frameReadRequest addr start count) s = .next after

/-- R76 with R55: what ENCODE of a SINGLE_WRITE command returns, and that the request-frame form does the same.
Model's choice: log entries 7 and 8. -/
def Obligations.EncodeSingleWriteBuildsFrame : Prop :=
  ∀ (addr start : Byte) (v : Word) (s : State), start.toNat < 13 →
    let f := [addr, 0x06#8] ++ be16 (start.setWidth 16) ++ be16 v
    let after := afterOk s { blank with
      frame := f ++ le16 (crc16 f), template := f ++ le16 (crc16 f), tmask := List.replicate 8 true, expLen := 8#8 }
    exec (.encode { addr := addr, mode := 0x06#8, start := start, count := 1#8, data := [v] }) s = .next after ∧
    exec (.frameSingleWriteRequest { addr := addr, start := start, count := 1#8, data := [v] }) s = .next after

/-- R77 with R56: what ENCODE of a MULTIPLE_WRITE command returns, and that the request-frame form does the same.
Model's choice: log entries 7 and 8. -/
def Obligations.EncodeMultipleWriteBuildsFrame : Prop :=
  ∀ (addr start count : Byte) (data : List Word) (s : State),
    start.toNat < 13 → 0 < count.toNat → start.toNat + count.toNat ≤ 13 → data.length = count.toNat →
    let t := [addr, 0x10#8] ++ be16 (start.setWidth 16) ++ be16 (count.setWidth 16)
    let f := t ++ [BitVec.ofNat 8 (2 * count.toNat)] ++ data.flatMap be16
    let after := afterOk s { blank with
      frame := f ++ le16 (crc16 f), template := t ++ le16 (crc16 t), tmask := List.replicate 8 true, expLen := 8#8 }
    exec (.encode { addr := addr, mode := 0x10#8, start := start, count := count, data := data }) s = .next after ∧
    exec (.frameMultipleWriteRequest { addr := addr, start := start, count := count, data := data }) s = .next after

/-- R73, R97: the status of a refused ENCODE is that of its first failing check, with every field at its default; the
request-frame forms are refused alike. Model's choice: log entries 7 and 8. -/
def Obligations.EncodeRefusesInOrder : Prop :=
  ∀ (d : Descriptor) (s : State) (st : Status),
    st = (if d.mode ≠ 0x03#8 ∧ d.mode ≠ 0x06#8 ∧ d.mode ≠ 0x10#8 then Status.errUnsupportedMode
      else if 13 ≤ d.start.toNat then .errUnknownRegister
      else if d.count.toNat = 0 ∨ 13 < d.start.toNat + d.count.toNat then .errSpan
      else if d.mode = 0x06#8 ∧ d.count.toNat ≠ 1 then .errSpan
      else if d.mode = 0x06#8 ∧ d.data.length ≠ 1 then .errData
      else if d.mode = 0x10#8 ∧ d.data.length ≠ d.count.toNat then .errData
      else .ok) →
    st ≠ .ok →
    exec (.encode d) s = .next (afterMisuse s st blank) ∧
    (d.mode = 0x03#8 →
      exec (.frameReadRequest d.addr d.start d.count) s = .next (afterMisuse s st blank)) ∧
    (d.mode = 0x06#8 → exec (.frameSingleWriteRequest
      { addr := d.addr, start := d.start, count := d.count, data := d.data }) s = .next (afterMisuse s st blank)) ∧
    (d.mode = 0x10#8 → exec (.frameMultipleWriteRequest
      { addr := d.addr, start := d.start, count := d.count, data := d.data }) s = .next (afterMisuse s st blank))

/-- R80: `EXP_LEN` is the template's length. -/
def Obligations.EncodeExpectedLength : Prop :=
  ∀ (d : Descriptor) (s t : State) (r : Response), exec (.encode d) s = .next t → t.response = some r →
    r.status = .ok →
    r.expLen.toNat = r.template.length ∧
    (d.mode = 0x06#8 ∨ d.mode = 0x10#8 → r.template.length = 8) ∧
    (d.mode = 0x03#8 → r.template.length = 5 + 2 * d.count.toNat)

/-- R79: which template bytes are fixed fields. -/
def Obligations.EncodeTemplateMask : Prop :=
  ∀ (d : Descriptor) (s t : State) (r : Response), exec (.encode d) s = .next t → t.response = some r →
    r.status = .ok →
    r.tmask.length = r.template.length ∧
    ∀ i, i < r.template.length → (r.tmask[i]? = some true ↔ (d.mode = 0x03#8 → i < 3))

/-- R78: frame and template each end in the CRC of their own bytes, for READ over the zero placeholders. -/
def Obligations.EncodeSignsFrameAndTemplate : Prop :=
  ∀ (d : Descriptor) (s t : State) (r : Response), exec (.encode d) s = .next t → t.response = some r →
    r.status = .ok →
    ∃ f g : List Byte, r.frame = f ++ le16 (crc16 f) ∧ r.template = g ++ le16 (crc16 g) ∧
      (d.mode = 0x03#8 → g.drop 3 = List.replicate (2 * d.count.toNat) 0x00#8)

/-- R52 to R58: the frame an accepted ENCODE returns is read back by the wire decoder as the form of its command, and
running that form answers as ENCODE did. Model's choice: log entry 8. -/
def Obligations.EncodeFrameIsItsWireForm : Prop :=
  ∀ (d : Descriptor) (s t : State) (r : Response), exec (.encode d) s = .next t → t.response = some r →
    r.status = .ok →
    ∃ i, decodeRequestFrame r.frame = .ok i ∧ encode i = r.frame ∧ exec i s = .next t

/-! ### Response Parser: DECODE and the response-frame forms -/

/-- R83 and R91 item 3: a bad CRC ends the request first, whatever the command, keeping only `MODE`; the sentinel `[00]`
and the empty response are such. Model's choice: log entry 7. -/
def Obligations.DecodeChecksCrcFirst : Prop :=
  (∀ (d : Descriptor) (r : List Byte) (s : State), crcOk r = false →
    exec (.decode d r) s = .next (afterDeviceFault s .integrityFail { blank with mode := d.mode })) ∧
  (∀ (d : Descriptor) (s : State), exec (.decode d [0x00#8]) s =
    .next (afterDeviceFault s .integrityFail { blank with mode := d.mode })) ∧
  (∀ (d : Descriptor) (s : State), exec (.decode d []) s =
    .next (afterDeviceFault s .integrityFail { blank with mode := d.mode }))

/-- R83, R97: with a good CRC, a command ENCODE refuses is refused by DECODE with the same status, keeping only `MODE`.
Model's choice: log entry 7. -/
def Obligations.DecodeRefusesWhatEncodeRefuses : Prop :=
  ∀ (d : Descriptor) (b : List Byte) (s t : State) (r : Response), crcOk b = true →
    exec (.encode d) s = .next t → t.response = some r → r.status ≠ .ok →
    exec (.decode d b) s = .next (afterMisuse s r.status { blank with mode := d.mode })

/-- R84: DECODE of a READ command. Model's choice: log entry 7. -/
def Obligations.DecodeReadExtractsValues : Prop :=
  ∀ (addr start count : Byte) (data : List Word) (r : List Byte) (s : State),
    start.toNat < 13 → 0 < count.toNat → start.toNat + count.toNat ≤ 13 → crcOk r = true →
    let d : Descriptor := { addr := addr, mode := 0x03#8, start := start, count := count, data := data }
    let bc := (byteAt r 2).toNat
    if 5 ≤ r.length ∧ bc % 2 = 0 ∧ r.length = 5 + bc ∧ start.toNat + bc / 2 ≤ 13 then
      exec (.decode d r) s = .next (afterOk s { blank with
        mode := 0x03#8, valid := true, address := addr
        count := BitVec.ofNat 8 (bc / 2)
        regs := (List.range' start.toNat (bc / 2)).map (BitVec.ofNat 8)
        values := (List.range (bc / 2)).map fun i => rdBe16 r (3 + 2 * i)
        tmatch := decide (bc = 2 * count.toNat ∧ byteAt r 0 = addr ∧ byteAt r 1 = 0x03#8) })
    else
      exec (.decode d r) s = .next (afterDeviceFault s .errFormat { blank with mode := 0x03#8 })

/-- R85, R88: DECODE of a SINGLE_WRITE command takes register and value from the echo; an echoed address that names no
register is ERR_FORMAT, not a misuse. Model's choice: log entry 7. -/
def Obligations.DecodeSingleWriteExtractsEcho : Prop :=
  ∀ (addr start : Byte) (v : Word) (r : List Byte) (s : State), start.toNat < 13 → crcOk r = true →
    let d : Descriptor := { addr := addr, mode := 0x06#8, start := start, count := 1#8, data := [v] }
    if r.length = 8 ∧ (rdBe16 r 2).toNat ≤ 12 then
      exec (.decode d r) s = .next (afterOk s { blank with
        mode := 0x06#8, valid := true, address := addr, count := 1#8
        regs := [(rdBe16 r 2).setWidth 8]
        values := [rdBe16 r 4]
        tmatch := decide (r.take 6 = [addr, 0x06#8] ++ be16 (start.setWidth 16) ++ be16 v) })
    else
      exec (.decode d r) s = .next (afterDeviceFault s .errFormat { blank with mode := 0x06#8 })

/-- R86: DECODE of a MULTIPLE_WRITE command checks the echoed span and reports the command's values.
Model's choice: log entry 7. -/
def Obligations.DecodeMultipleWriteChecksEcho : Prop :=
  ∀ (addr start count : Byte) (data : List Word) (r : List Byte) (s : State),
    start.toNat < 13 → 0 < count.toNat → start.toNat + count.toNat ≤ 13 → data.length = count.toNat → crcOk r = true →
    let d : Descriptor := { addr := addr, mode := 0x10#8, start := start, count := count, data := data }
    if r.length = 8 ∧ rdBe16 r 2 = start.setWidth 16 ∧ rdBe16 r 4 = count.setWidth 16 then
      exec (.decode d r) s = .next (afterOk s { blank with
        mode := 0x10#8, valid := true, address := addr, count := count
        regs := (List.range' start.toNat count.toNat).map (BitVec.ofNat 8)
        values := data
        tmatch := decide (byteAt r 0 = addr ∧ byteAt r 1 = 0x10#8) })
    else
      exec (.decode d r) s = .next (afterDeviceFault s .errFormat { blank with mode := 0x10#8 })

/-- R87: on success `VALID` is 1 and `TMATCH` is 1 exactly when the response has the length of the template ENCODE returns for the same
command and equals it wherever that ENCODE's mask is 1; on failure it is 0. -/
def Obligations.DecodeTemplateMatch : Prop :=
  ∀ (d : Descriptor) (b : List Byte) (s t u : State) (r e : Response),
    exec (.decode d b) s = .next t → t.response = some r → exec (.encode d) s = .next u → u.response = some e →
    (r.status = .ok → r.valid = true ∧ (r.tmatch = true ↔ b.length = e.template.length ∧
      ∀ i, i < b.length → e.tmask[i]? = some false ∨ b[i]? = e.template[i]?)) ∧
    (r.status ≠ .ok → r.tmatch = false)

/-- R91 item 1: for every command ENCODE accepts, decoding the response a correct device gives (R90) returns the registers
of the window and the values, with `VALID` and `TMATCH`. Model's choice: log entry 7. -/
def Obligations.DecodeRoundTrip : Prop :=
  ∀ (m : Mode) (d : Descriptor) (vals : List Word) (s : State),
    d.mode = modeCode m → cmdCheck d = .ok → (m = .read → vals.length = d.count.toNat) →
    exec (.decode d (devRsp m d vals)) s = .next (afterOk s { blank with
      mode := d.mode, valid := true, tmatch := true, address := d.addr, count := d.count
      regs := (List.range' d.start.toNat d.count.toNat).map (BitVec.ofNat 8)
      values := reportedValues m d vals })

/-- R91 item 2: flipping any single bit of such a response gives INTEGRITY_FAIL and nothing else.
Model's choice: log entry 7. -/
def Obligations.DecodeRejectsBitFlips : Prop :=
  ∀ (m : Mode) (d : Descriptor) (vals : List Word) (s : State) (i k : Nat),
    d.mode = modeCode m → cmdCheck d = .ok → (m = .read → vals.length = d.count.toNat) →
    i < (devRsp m d vals).length → k < 8 →
    exec (.decode d (flipBit (devRsp m d vals) i k)) s =
      .next (afterDeviceFault s .integrityFail { blank with mode := d.mode })

/-- R90: for the two write modes the correct device's response is ENCODE's template; for READ it agrees with the template
in length and in the three fixed bytes. -/
def Obligations.DeviceResponseFitsTemplate : Prop :=
  ∀ (m : Mode) (d : Descriptor) (vals : List Word) (s t : State) (r : Response),
    d.mode = modeCode m → cmdCheck d = .ok → exec (.encode d) s = .next t → t.response = some r →
    (m ≠ .read → devRsp m d vals = r.template) ∧
    (m = .read → vals.length = d.count.toNat →
      (devRsp m d vals).length = r.template.length ∧ (devRsp m d vals).take 3 = r.template.take 3)

/-- R84 on a frame of the READ response layout (R57), given by its fields: the FRAME_READ_RESPONSE form completes.
Model's choice: log entries 7 and 8. -/
def Obligations.FrameReadResponseDecodes : Prop :=
  ∀ (c : CommandArgs) (address : Byte) (values : List Word) (s : State),
    c.start.toNat < 13 → 0 < c.count.toNat → c.start.toNat + c.count.toNat ≤ 13 →
    c.start.toNat + values.length ≤ 13 →
    exec (.frameReadResponse c address values
        (crc16 ([address, 0x03#8, BitVec.ofNat 8 (2 * values.length)] ++ values.flatMap be16))) s =
      .next (afterOk s { blank with
        mode := 0x03#8, valid := true, address := c.addr
        count := BitVec.ofNat 8 values.length
        regs := (List.range' c.start.toNat values.length).map (BitVec.ofNat 8)
        values := values
        tmatch := decide (values.length = c.count.toNat ∧ address = c.addr) })

/-- R85 on a frame of the SINGLE_WRITE response layout (R57): the FRAME_SINGLE_WRITE_RESPONSE form completes.
Model's choice: log entries 7 and 8. -/
def Obligations.FrameSingleWriteResponseDecodes : Prop :=
  ∀ (addr start address reg : Byte) (v value : Word) (s : State), start.toNat < 13 → reg.toNat < 13 →
    exec (.frameSingleWriteResponse { addr := addr, start := start, count := 1#8, data := [v] } address
        (reg.setWidth 16) value (crc16 ([address, 0x06#8] ++ be16 (reg.setWidth 16) ++ be16 value))) s =
      .next (afterOk s { blank with
        mode := 0x06#8, valid := true, address := addr, count := 1#8, regs := [reg], values := [value]
        tmatch := decide (address = addr ∧ reg = start ∧ value = v) })

/-- R86 on a frame of the MULTIPLE_WRITE response layout (R57): the FRAME_MULTIPLE_WRITE_RESPONSE form completes.
Model's choice: log entries 7 and 8. -/
def Obligations.FrameMultipleWriteResponseDecodes : Prop :=
  ∀ (c : CommandArgs) (address : Byte) (s : State),
    c.start.toNat < 13 → 0 < c.count.toNat → c.start.toNat + c.count.toNat ≤ 13 → c.data.length = c.count.toNat →
    exec (.frameMultipleWriteResponse c address (c.start.setWidth 16) (c.count.setWidth 16)
        (crc16 ([address, 0x10#8] ++ be16 (c.start.setWidth 16) ++ be16 (c.count.setWidth 16)))) s =
      .next (afterOk s { blank with
        mode := 0x10#8, valid := true, address := c.addr, count := c.count
        regs := (List.range' c.start.toNat c.count.toNat).map (BitVec.ofNat 8)
        values := c.data
        tmatch := decide (address = c.addr) })

/-- R41, R53, R57 (log entry 8): a DECODE whose response bytes are a frame of its command's mode runs as that frame's
form, and the form's bytes are the response. -/
def Obligations.DecodeRunsItsWireForm : Prop :=
  ∀ (m : Mode) (c : CommandArgs) (r : List Byte) (i : Instr) (s : State),
    decodeResponseFrame m c r = .ok i →
    encode i = r ∧
    exec (.decode { addr := c.addr, mode := modeCode m, start := c.start, count := c.count, data := c.data } r) s =
      exec i s

/-! ### The machine -/

/-- R11, R39, R51: when the next request parses to an instruction, the step is that instruction, with the request taken
off the port. -/
def Obligations.StepRunsDecodedRequest : Prop :=
  ∀ (s : State) (q : List Byte) (rest : List HostEvent) (i : Instr),
    s.inputs = .request q :: rest → decode q = .ok i → step s = exec i { s with inputs := rest }

/-- R50: the unsupported operation codes, at any length. -/
def Obligations.UndefinedCodeIsUnsupportedOp : Prop :=
  ∀ (s : State) (b : Byte) (q : List Byte) (rest : List HostEvent),
    (b.toNat = 0x00 ∨ (0x06 ≤ b.toNat ∧ b.toNat ≤ 0x0F) ∨ (0x11 ≤ b.toNat ∧ b.toNat ≤ 0x1F) ∨
      (0x21 ≤ b.toNat ∧ b.toNat ≤ 0x2F) ∨ 0x34 ≤ b.toNat) →
    s.inputs = .request (b :: q) :: rest →
    ∃ (t : State) (r : Response), step s = .next t ∧ t.response = some r ∧ r.status = .errUnsupportedOp ∧
      r.misuse = true ∧ t.misuse = true ∧ t.acc = s.acc ∧ t.inputs = rest

/-- R42, R51: a request with a defined code parses exactly when its length is the one its layout implies and its length
fields are within their limits; every other such request, and the empty one, is ERR_DATA with `ACC` unchanged.
Model's choice: log entry 7. -/
def Obligations.MalformedRequestIsErrData : Prop :=
  (∀ (op : OpCode) (b : Byte) (q : List Byte), opOf b = some op →
    ((∃ i, decode (b :: q) = .ok i) ↔
      (b :: q).length = impliedLength op (b :: q) ∧ limitsOk op (b :: q))) ∧
  (∀ (s : State) (q : List Byte) (rest : List HostEvent), s.inputs = .request q :: rest →
    (q = [] ∨ ∃ (b : Byte) (l : List Byte) (op : OpCode), q = b :: l ∧ opOf b = some op ∧ ∀ i, decode q ≠ .ok i) →
    step s = .next (afterMisuse { s with inputs := rest } .errData blank))

/-- R104: what the reset event leaves. -/
def Obligations.ResetEventRestoresState : Prop :=
  ∀ (s : State) (rest : List HostEvent), s.inputs = .reset :: rest →
    ∃ t : State, step s = .next t ∧ t.acc = 0xFFFF#16 ∧ t.misuse = false ∧ t.inputs = rest

/-- R28: the reset values of the block's two state elements. -/
def Obligations.ResetStateValues : Prop := State.reset.acc = 0xFFFF#16 ∧ State.reset.misuse = false

/-- The model's choice (log entries 2 and 3; R101's table): with no input left a step changes nothing, and the reset event
leaves the response port empty. -/
def Obligations.IdleAndResetPortBehaviour : Prop :=
  (∀ s : State, s.inputs = [] → step s = .next s) ∧
  (∀ (s : State) (rest : List HostEvent), s.inputs = .reset :: rest → ∃ t, step s = .next t ∧ t.response = none)

/-- R112 and R91 item 4: every instruction and every step ends in a next state, and every request is answered. -/
def Obligations.EveryRequestCompletes : Prop :=
  (∀ (i : Instr) (s : State), ∃ t, exec i s = .next t) ∧
  (∀ s : State, ∃ t, step s = .next t) ∧
  (∀ (s : State) (q : List Byte) (rest : List HostEvent), s.inputs = .request q :: rest →
    ∃ t r, step s = .next t ∧ t.response = some r)

/-- R95: the MISUSE rule, for every request, and that nothing but reset clears the flag. -/
def Obligations.MisuseFlagRule : Prop :=
  (∀ (s t : State) (q : List Byte) (rest : List HostEvent), s.inputs = .request q :: rest → step s = .next t →
    ∃ r, t.response = some r ∧ r.misuse = t.misuse ∧
      (t.misuse = true ↔ s.misuse = true ∨ r.status = .errUnknownRegister ∨ r.status = .errUnsupportedMode ∨
        r.status = .errSpan ∨ r.status = .errData ∨ r.status = .errUnsupportedOp)) ∧
  (∀ s t : State, step s = .next t → s.misuse = true → t.misuse = false → ∃ rest, s.inputs = .reset :: rest)

/-- R96: a request that ends with any status but OK leaves `ACC` as it was. -/
def Obligations.FailureKeepsAccumulator : Prop :=
  ∀ (s t : State) (q : List Byte) (rest : List HostEvent) (r : Response),
    s.inputs = .request q :: rest → step s = .next t → t.response = some r → r.status ≠ .ok →
    t.acc = s.acc ∧ t.misuse = (s.misuse || isMisuse r.status)

/-- R13: the value of `ACC` after reset, its writers and its readers, and that there are no others. -/
def Obligations.AccumulatorWritersAndReaders : Prop :=
  State.reset.acc = 0xFFFF#16 ∧
  (∀ s : State, ∃ t, exec .crcInit s = .next t ∧ t.acc = 0xFFFF#16) ∧
  (∀ (b : Byte) (s : State), ∃ t, exec (.crcUpdate b) s = .next t ∧ t.acc = crcStep s.acc b) ∧
  (∀ (buf : List Byte) (s : State), ∃ t, exec (.crcBlock buf) s = .next t ∧ t.acc = crc16 buf) ∧
  (∀ s : State, ∃ (t : State) (r : Response), exec .crcRead s = .next t ∧ t.response = some r ∧ r.crc = s.acc) ∧
  (∀ (i : Instr) (s t : State), exec i s = .next t → t.acc ≠ s.acc →
    i = .crcInit ∨ (∃ b, i = .crcUpdate b) ∨ ∃ buf, i = .crcBlock buf) ∧
  (∀ (i : Instr) (s t : State) (a : Word), (∀ b, i ≠ .crcUpdate b) → i ≠ .crcRead → exec i s = .next t →
    ∃ u, exec i { s with acc := a } = .next u ∧ u.response = t.response ∧ u.misuse = t.misuse ∧
      (u.acc = t.acc ∨ (u.acc = a ∧ t.acc = s.acc)))

/-- R37: every operation but CRC_UPDATE is idempotent: performing it again leaves the same state and response. -/
def Obligations.OperationsAreIdempotent : Prop :=
  ∀ (i : Instr) (s t : State), (∀ b, i ≠ .crcUpdate b) → exec i s = .next t → exec i t = .next t

/-- R24, R39: the response and the new state depend on `ACC`, `MISUSE` and the request alone, not on the last response nor
on what the host will send. -/
def Obligations.ResponseDependsOnStateAndRequest : Prop :=
  ∀ (s s' t : State) (q : List Byte) (rest rest' : List HostEvent),
    s.inputs = .request q :: rest → s'.inputs = .request q :: rest' → s.acc = s'.acc → s.misuse = s'.misuse →
    step s = .next t → step s' = .next { t with inputs := rest' }

/-- R11, R39: a step takes exactly the first input. -/
def Obligations.InputsAreTakenInOrder : Prop :=
  ∀ (s t : State) (e : HostEvent) (rest : List HostEvent), s.inputs = e :: rest → step s = .next t → t.inputs = rest

/-- The response port's invariant holds at reset, where the response port is empty. Model's choice: log entry 4. -/
def Obligations.PortInvariantAtReset : Prop := PortInv State.reset

/-- R23, R24, R95: every step keeps the response port's invariant: the widths and lengths of the record's fields, the
defaults of a failure, and that its `MISUSE` field is the flag. Model's choice: log entry 7. -/
def Obligations.PortInvariantKept : Prop := ∀ s t : State, PortInv s → step s = .next t → PortInv t

/-- R93, R94: the eight codes, and the two failure classes, which with OK are all the statuses. -/
def Obligations.StatusCodesAndClasses : Prop :=
  ([.ok, .errUnknownRegister, .errUnsupportedMode, .errSpan, .errData, .integrityFail, .errFormat,
    .errUnsupportedOp] : List Status).map statusCode =
    [0x00#8, 0x01#8, 0x02#8, 0x03#8, 0x04#8, 0x05#8, 0x06#8, 0x07#8] ∧
  (∀ st : Status, (statusCode st).toNat < 8) ∧
  (∀ st : Status, isMisuse st = true ↔ st = .errUnknownRegister ∨ st = .errUnsupportedMode ∨ st = .errSpan ∨
    st = .errData ∨ st = .errUnsupportedOp) ∧
  (∀ st : Status, isDeviceFault st = true ↔ st = .integrityFail ∨ st = .errFormat)

/-! ### Encodings -/

/-- R43 to R49: decoding an encoded well-formed request operation gives it back. -/
def Obligations.DecodeEncodeRequest : Prop :=
  ∀ i : Instr, i.wf = true → isRequest i = true → decode (encode i) = .ok i

/-- R42, R51: every request the parse accepts is the encoding of the operation it names, a well-formed one: no two requests
mean the same, and no bit of a request is dropped. -/
def Obligations.EncodeDecodeRequest : Prop :=
  ∀ (q : List Byte) (i : Instr), decode q = .ok i → encode i = q ∧ i.wf = true ∧ isRequest i = true

/-- R54 to R56: decoding an encoded well-formed request-frame form gives it back. -/
def Obligations.RequestFrameRoundTrip : Prop :=
  (∀ addr start count : Byte, (Instr.frameReadRequest addr start count).wf = true →
    decodeRequestFrame (encode (.frameReadRequest addr start count)) = .ok (.frameReadRequest addr start count)) ∧
  (∀ c : CommandArgs, (Instr.frameSingleWriteRequest c).wf = true →
    decodeRequestFrame (encode (.frameSingleWriteRequest c)) = .ok (.frameSingleWriteRequest c)) ∧
  (∀ c : CommandArgs, (Instr.frameMultipleWriteRequest c).wf = true →
    decodeRequestFrame (encode (.frameMultipleWriteRequest c)) = .ok (.frameMultipleWriteRequest c))

/-- R52 to R58: bytes read as a request frame are exactly that frame's encoding, CRC included. -/
def Obligations.RequestFrameCanonical : Prop :=
  ∀ (f : List Byte) (i : Instr), decodeRequestFrame f = .ok i → encode i = f ∧ i.wf = true

/-- R57: decoding an encoded well-formed response-frame form against its command gives it back. -/
def Obligations.ResponseFrameRoundTrip : Prop :=
  (∀ (c : CommandArgs) (a : Byte) (vs : List Word) (k : Word), (Instr.frameReadResponse c a vs k).wf = true →
    decodeResponseFrame .read c (encode (.frameReadResponse c a vs k)) = .ok (.frameReadResponse c a vs k)) ∧
  (∀ (c : CommandArgs) (a : Byte) (x y k : Word),
    decodeResponseFrame .singleWrite c (encode (.frameSingleWriteResponse c a x y k)) =
      .ok (.frameSingleWriteResponse c a x y k)) ∧
  (∀ (c : CommandArgs) (a : Byte) (x y k : Word),
    decodeResponseFrame .multipleWrite c (encode (.frameMultipleWriteResponse c a x y k)) =
      .ok (.frameMultipleWriteResponse c a x y k))

/-- Words written out from R43 and R54 to R57 decode to the instructions they stand for. -/
def Obligations.SpecWordsDecode : Prop :=
  decode [0x02#8, 0x01#8] = .ok (.crcUpdate 0x01#8) ∧
  decode [0x10#8, 0x01#8, 0x06#8, 0x09#8, 0x01#8, 0x01#8, 0x00#8, 0x01#8] =
    .ok (.encode { addr := 1#8, mode := 0x06#8, start := 9#8, count := 1#8, data := [1#16] }) ∧
  decode [0x31#8, 0x00#8, 0x0A#8] = .ok (.lookupAddr 0x000A#16) ∧
  decodeRequestFrame [0x01#8, 0x03#8, 0x00#8, 0x00#8, 0x00#8, 0x02#8, 0xC4#8, 0x0B#8] =
    .ok (.frameReadRequest 1#8 0#8 2#8)

/-- R46 to R48: the requests of ENCODE and DECODE, byte by byte. A byte sequence is such a request exactly when it is the
operation code and the descriptor, for DECODE followed by the response's length and bytes, within the limits. -/
def Obligations.CommandRequestLayouts : Prop :=
  (∀ (q : List Byte) (a m r c : Byte) (vs : List Word),
    decode q = .ok (.encode { addr := a, mode := m, start := r, count := c, data := vs }) ↔
      vs.length ≤ 13 ∧
      q = [0x10#8, a, m, r, c, BitVec.ofNat 8 vs.length] ++ vs.flatMap be16) ∧
  (∀ (q : List Byte) (a m r c : Byte) (vs : List Word) (rsp : List Byte),
    decode q = .ok (.decode { addr := a, mode := m, start := r, count := c, data := vs } rsp) ↔
      vs.length ≤ 13 ∧ rsp.length ≤ 256 ∧
      q = [0x20#8, a, m, r, c, BitVec.ofNat 8 vs.length] ++ vs.flatMap be16 ++
        be16 (BitVec.ofNat 16 rsp.length) ++ rsp)

/-- R59: each line of the host syntax stands for the request the rule writes beside it. In order: what a mode operand and a
register operand stand for, a name among them; the eleven operation lines; the three pseudo-instructions, which are ENCODE
lines; that each request parses to its operation; and that a program is its lines' requests in order. The lines are
parsed lines. Model's choice: log entry 12. -/
def Obligations.HostSyntaxExpands : Prop :=
  ([.read, .singleWrite, .multipleWrite] : List Mode).map (fun m => modeRefByte (.mode m)) =
    [0x03#8, 0x06#8, 0x10#8] ∧
  (∀ m : Byte, modeRefByte (.number m) = m) ∧
  ([.vSet, .iSet, .vOut, .iOut, .power, .vIn, .lock, .protect, .cvCc, .onOff, .bLed, .model, .version] :
      List RegName).map (fun n => (nameText n, regRefId (.name n))) =
    [("V-SET", 0#8), ("I-SET", 1#8), ("V-OUT", 2#8), ("I-OUT", 3#8), ("POWER", 4#8), ("V-IN", 5#8), ("LOCK", 6#8),
      ("PROTECT", 7#8), ("CV/CC", 8#8), ("ON/OFF", 9#8), ("B-LED", 10#8), ("MODEL", 11#8), ("VERSION", 12#8)] ∧
  (∀ r : Byte, regRefId (.number r) = r) ∧
  assemble .crcInit = [0x01#8] ∧
  (∀ b : Byte, assemble (.crcUpdate b) = [0x02#8, b]) ∧
  (∀ buf : List Byte, assemble (.crcBlock buf) = [0x03#8] ++ be16 (BitVec.ofNat 16 buf.length) ++ buf) ∧
  (∀ buf : List Byte, assemble (.crcVerify buf) = [0x04#8] ++ be16 (BitVec.ofNat 16 buf.length) ++ buf) ∧
  assemble .crcRead = [0x05#8] ∧
  (∀ (a : Byte) (m : ModeRef) (r : RegRef) (c : Byte) (vs : List Word),
    assemble (.encode { addr := a, mode := m, start := r, count := c, data := vs }) =
      [0x10#8, a, modeRefByte m, regRefId r, c, BitVec.ofNat 8 vs.length] ++ vs.flatMap be16) ∧
  (∀ (a : Byte) (m : ModeRef) (r : RegRef) (c : Byte) (vs : List Word) (rsp : List Byte),
    assemble (.decode { addr := a, mode := m, start := r, count := c, data := vs } rsp) =
      [0x20#8, a, modeRefByte m, regRefId r, c, BitVec.ofNat 8 vs.length] ++ vs.flatMap be16 ++
        be16 (BitVec.ofNat 16 rsp.length) ++ rsp) ∧
  (∀ r : RegRef, assemble (.lookupName r) = [0x30#8, regRefId r]) ∧
  (∀ a : Word, assemble (.lookupAddr a) = [0x31#8] ++ be16 a) ∧
  (∀ r : RegRef, assemble (.orderIndex r) = [0x32#8, regRefId r]) ∧
  (∀ (r : RegRef) (c : Byte), assemble (.resolveWindow r c) = [0x33#8, regRefId r, c]) ∧
  (∀ (a : Byte) (r : RegRef) (c : Byte), assemble (.read a r c) =
    assemble (.encode { addr := a, mode := .mode .read, start := r, count := c, data := [] })) ∧
  (∀ (a : Byte) (r : RegRef) (v : Word), assemble (.write1 a r v) =
    assemble (.encode { addr := a, mode := .mode .singleWrite, start := r, count := 1#8, data := [v] })) ∧
  (∀ (a : Byte) (r : RegRef) (vs : List Word), assemble (.writen a r vs) = assemble (.encode
    { addr := a, mode := .mode .multipleWrite, start := r, count := BitVec.ofNat 8 vs.length, data := vs })) ∧
  (∀ l : HostLine, (lineInstr l).wf = true → decode (assemble l) = .ok (lineInstr l)) ∧
  (∀ ls : List HostLine, assembleProgram ls = ls.map fun l => .request (assemble l))
end

