-- ==== Sys2Proof/Laws/Bytes.lean ====
section
/-! SUPPORT. Byte sequences: what is written is what is read, and lengths. -/

namespace Sys2Proof.Machine

@[simp] theorem byteAt_cons_zero (b : Byte) (l : List Byte) : byteAt (b :: l) 0 = b := rfl
@[simp] theorem byteAt_cons_succ (b : Byte) (l : List Byte) (i : Nat) :
    byteAt (b :: l) (i + 1) = byteAt l i := rfl

theorem byteAt_append_left {a b : List Byte} {i : Nat} (h : i < a.length) : byteAt (a ++ b) i = byteAt a i := by
  simp [byteAt, List.getD, List.getElem?_append_left h]

theorem byteAt_append_right {a b : List Byte} {i : Nat} : byteAt (a ++ b) (a.length + i) = byteAt b i := by
  simp [byteAt, List.getD, List.getElem?_append_right]

/-- A big-endian pair puts a word together again. -/
@[simp] theorem join_hi_lo (v : Word) : (zext16 (hiByte v) <<< 8) ||| zext16 (loByte v) = v := by
  apply BitVec.eq_of_getLsbD_eq
  intro i hi
  by_cases h : i < 8
  · simp [zext16, hiByte, loByte, h, hi]
  · have h8 : 8 + (i - 8) = i := by omega
    have hj : i - 8 < 8 := by omega
    simp [zext16, hiByte, loByte, h, hi, h8, hj]

/-- A little-endian pair puts a word together again. -/
theorem join_lo_hi (v : Word) : zext16 (loByte v) ||| (zext16 (hiByte v) <<< 8) = v := by
  rw [BitVec.or_comm, join_hi_lo]

@[simp] theorem hiByte_join (a b : Byte) : hiByte ((zext16 a <<< 8) ||| zext16 b) = a := by
  apply BitVec.eq_of_getLsbD_eq
  intro i hi
  have h16 : 8 + i < 16 := by omega
  simp [zext16, hiByte, hi, h16]

@[simp] theorem loByte_join (a b : Byte) : loByte ((zext16 a <<< 8) ||| zext16 b) = b := by
  apply BitVec.eq_of_getLsbD_eq
  intro i hi
  have h16 : i < 16 := by omega
  simp [zext16, loByte, hi, h16]

@[simp] theorem loByte_zext16 (b : Byte) : loByte (zext16 b) = b := by
  apply BitVec.eq_of_getLsbD_eq
  intro i hi
  have h16 : i < 16 := by omega
  simp [zext16, loByte, hi, h16]

@[simp] theorem length_be16 (v : Word) : (be16 v).length = 2 := rfl
@[simp] theorem length_le16 (v : Word) : (le16 v).length = 2 := rfl

/-- `rd_be16` reads what `be16` wrote. -/
@[simp] theorem rdBe16_be16 (v : Word) (l : List Byte) : rdBe16 (be16 v ++ l) 0 = v := join_hi_lo v

/-- `rd_le16` reads what `le16` wrote. -/
@[simp] theorem rdLe16_le16 (v : Word) (l : List Byte) : rdLe16 (le16 v ++ l) 0 = v := join_lo_hi v

theorem rdBe16_append_right {a b : List Byte} {i : Nat} : rdBe16 (a ++ b) (a.length + i) = rdBe16 b i := by
  simp only [rdBe16, Nat.add_assoc, byteAt_append_right]

theorem rdLe16_append_right {a b : List Byte} {i : Nat} : rdLe16 (a ++ b) (a.length + i) = rdLe16 b i := by
  simp only [rdLe16, Nat.add_assoc, byteAt_append_right]

@[simp] theorem length_wordBytes (vs : List Word) : (wordBytes vs).length = 2 * vs.length := by
  induction vs with
  | nil => rfl
  | cons v vs ih => simp [wordBytes, ih]; omega

@[simp] theorem length_readWords (b : List Byte) (i n : Nat) : (readWords b i n).length = n := by
  induction n generalizing i with
  | zero => rfl
  | succ n ih => simp [readWords, ih]

/-- `readWords` reads what `wordBytes` wrote, wherever it stands. -/
theorem readWords_wordBytes (a : List Byte) (vs : List Word) (b : List Byte) :
    readWords (a ++ wordBytes vs ++ b) a.length vs.length = vs := by
  induction vs generalizing a with
  | nil => rfl
  | cons v vs ih =>
    have h := ih (a ++ be16 v)
    simp only [List.length_append, length_be16, List.append_assoc] at h
    simp only [wordBytes, List.length_cons, readWords, List.append_assoc, h, List.cons.injEq, and_true]
    exact (rdBe16_append_right (i := 0)).trans (rdBe16_be16 v _)

/-- The value list of R46, R56 and R57 is the concatenation of its values' two bytes. -/
theorem wordBytes_eq_flatMap (vs : List Word) : wordBytes vs = vs.flatMap be16 := by
  induction vs with
  | nil => rfl
  | cons v vs ih => simp [wordBytes, ih]

/-- The values read from offset `i`, by index (R84). -/
theorem readWords_eq_map (b : List Byte) (i n : Nat) :
    readWords b i n = (List.range n).map fun j => rdBe16 b (i + 2 * j) := by
  induction n generalizing i with
  | zero => rfl
  | succ n ih =>
    rw [readWords, ih, List.range_succ_eq_map]
    simp only [List.map_cons, List.map_map, Nat.mul_zero, Nat.add_zero, List.cons.injEq, true_and]
    refine List.map_congr_left fun j _ => congrArg _ ?_
    rw [Nat.succ_eq_add_one]; omega

/-- `be16` writes what `rd_be16` read. -/
theorem be16_rdBe16 (b : List Byte) (i : Nat) : be16 (rdBe16 b i) = [byteAt b i, byteAt b (i + 1)] := by
  simp [be16, rdBe16]

/-- `le16` writes what `rd_le16` read. -/
theorem le16_rdLe16 (b : List Byte) (i : Nat) : le16 (rdLe16 b i) = [byteAt b i, byteAt b (i + 1)] := by
  simp only [le16, rdLe16]
  rw [BitVec.or_comm]
  simp

/-- A sequence from an offset inside it: its first byte, then the rest. -/
theorem byteAt_cons_drop {b : List Byte} {i : Nat} (h : i < b.length) : byteAt b i :: b.drop (i + 1) = b.drop i := by
  rw [List.drop_eq_getElem_cons (i := i) h]
  simp [byteAt, List.getD, h]

/-- `wordBytes` writes what `readWords` read. -/
theorem wordBytes_readWords (b : List Byte) (i n : Nat) (h : i + 2 * n ≤ b.length) :
    wordBytes (readWords b i n) = (b.drop i).take (2 * n) := by
  induction n generalizing i with
  | zero => rfl
  | succ n ih =>
    rw [readWords, wordBytes, be16_rdBe16, ih (i + 2) (by omega), ← byteAt_cons_drop (i := i) (by omega),
      ← byteAt_cons_drop (i := i + 1) (by omega), Nat.mul_succ]
    rfl

end Sys2Proof.Machine
end

