-- ==== Sys2Proof/Laws/Catalog.lean ====
section
/-! SUPPORT. The catalog and the command check: what each can answer. -/

namespace Sys2Proof.Machine

/-- `ADDR_OF(r)` is `zext_16(r)` (R19). -/
theorem addrOf_eq (r : Byte) : addrOf r = zext16 r := by
  revert r; decide +kernel

/-- An identifier has an entry exactly when it is not an unknown register. -/
theorem entryOf_isSome (r : Byte) : (entryOf r).isSome = !unknownReg r := by
  revert r; decide +kernel

@[simp] theorem length_window (r : Byte) (n : Nat) : (window r n).length = n := by
  induction n generalizing r with
  | zero => rfl
  | succ n ih => simp [window, ih]

/-- What an accepted command satisfies, and that nothing else is accepted (R73). -/
theorem cmdCheck_ok_iff (d : Descriptor) :
    cmdCheck d = .ok ↔
      modeOf d.mode ≠ none ∧ d.start.toNat < 13 ∧ d.count ≠ 0#8 ∧ d.start.toNat + d.count.toNat ≤ 13 ∧
      (d.mode = 0x06#8 → d.count = 1#8 ∧ d.data.length = 1) ∧
      (d.mode = 0x10#8 → d.data.length = d.count.toNat) := by
  unfold cmdCheck unknownReg Config.nreg
  split_ifs <;> simp_all
  rename_i h
  intro h0 h13
  exact absurd h (by simp [h0, h13])

/-- `cmdCheck` answers OK or a misuse status other than ERR_UNSUPPORTED_OP. -/
theorem cmdCheck_cases (d : Descriptor) :
    cmdCheck d = .ok ∨ cmdCheck d = .errUnsupportedMode ∨ cmdCheck d = .errUnknownRegister ∨
      cmdCheck d = .errSpan ∨ cmdCheck d = .errData := by
  unfold cmdCheck
  split_ifs <;> simp

/-- A `MODE` byte names a mode exactly when it is that mode's function code. -/
theorem modeOf_eq_some_iff (b : Byte) (m : Mode) : modeOf b = some m ↔ b = modeCode m := by
  constructor
  · intro h
    unfold modeOf at h
    split_ifs at h <;> cases h <;> assumption
  · rintro rfl
    cases m <;> rfl

/-- A window that stays inside a byte's range, as the list of its identifiers (R63). -/
theorem window_eq_map (r : Byte) (n : Nat) (h : r.toNat + n ≤ 255) :
    window r n = (List.range' r.toNat n).map (BitVec.ofNat 8) := by
  induction n generalizing r with
  | zero => rfl
  | succ n ih =>
    have hr : (r + 1#8).toNat = r.toNat + 1 := by simp [BitVec.toNat_add]; omega
    simp only [window, List.range'_succ, List.map_cons, BitVec.ofNat_toNat, BitVec.setWidth_eq, List.cons.injEq,
      true_and]
    rw [ih (r + 1#8) (by omega), hr]

end Sys2Proof.Machine
end

