-- ==== Sys2Proof/Laws/Crc.lean ====
section
/-! SUPPORT. The CRC functions: their one-step equations, and what `crcOk` says of a signed sequence's parts. -/

namespace Sys2Proof.Machine

/-- R64's loop is its one iteration, iterated. -/
theorem crcShifts_eq_iterate (n : Nat) (acc : Word) : crcShifts n acc = crcShift^[n] acc := by
  induction n generalizing acc with
  | zero => rfl
  | succ n ih => exact ih _

@[simp] theorem crcFrom_nil (acc : Word) : crcFrom acc [] = acc := rfl
@[simp] theorem crcFrom_cons (acc : Word) (b : Byte) (s : List Byte) :
    crcFrom acc (b :: s) = crcFrom (crcStep acc b) s := rfl

theorem crcFrom_append (acc : Word) (s t : List Byte) : crcFrom acc (s ++ t) = crcFrom (crcFrom acc s) t := by
  induction s generalizing acc with
  | nil => rfl
  | cons b s ih => exact ih _

@[simp] theorem length_signed (s : List Byte) : (signed s).length = s.length + 2 := by simp [signed]

/-- The check reads the last two bytes as the CRC field, and the rest as the body. -/
theorem crcOk_append (s : List Byte) (c : Word) : crcOk (s ++ le16 c) = (crc16 s == c) := by
  have h : rdLe16 (s ++ le16 c) s.length = c := by
    simpa using (rdLe16_append_right (a := s) (b := le16 c) (i := 0)).trans (rdLe16_le16 c [])
  simp [crcOk, bodyCrc, crcField, slice, h]

end Sys2Proof.Machine
end

