-- ==== Sys2Proof/Laws/State.lean ====
section
/-! SUPPORT. What each update of the state leaves in each field. -/

namespace Sys2Proof.Machine

variable (s : State) (v : Word) (st : Status) (r : Response)

@[simp] theorem setAcc_acc : (setAcc s v).acc = v := rfl
@[simp] theorem setAcc_misuse : (setAcc s v).misuse = s.misuse := rfl
@[simp] theorem setAcc_inputs : (setAcc s v).inputs = s.inputs := rfl
@[simp] theorem setAcc_response : (setAcc s v).response = s.response := rfl

@[simp] theorem respond_acc : (respond s st r).acc = s.acc := rfl
@[simp] theorem respond_misuse : (respond s st r).misuse = (s.misuse || isMisuse st) := rfl
@[simp] theorem respond_inputs : (respond s st r).inputs = s.inputs := rfl
@[simp] theorem respond_response :
    (respond s st r).response = some { r with status := st, misuse := s.misuse || isMisuse st } := rfl

@[simp] theorem resetBlock_acc : (resetBlock s).acc = 0xFFFF#16 := rfl
@[simp] theorem resetBlock_misuse : (resetBlock s).misuse = false := rfl
@[simp] theorem resetBlock_inputs : (resetBlock s).inputs = s.inputs := rfl
@[simp] theorem resetBlock_response : (resetBlock s).response = none := rfl

/-- Writing the accumulator with its own value changes nothing. -/
@[simp] theorem setAcc_self : setAcc s s.acc = s := rfl

end Sys2Proof.Machine
end

