-- ==== Sys2Proof/Laws/Ops.lean ====
section
/-! SUPPORT. Each shared operation: everything it can answer. -/

namespace Sys2Proof.Machine

variable {s t : State}

theorem finish_next_iff {r : Response} : finish s r = .next t ↔ t = respond s .ok r := by
  simp only [finish, Host.Outcome.next.injEq]
  exact eq_comm

theorem raise_next_iff {st : Status} {r : Response} : raise s st r = .next t ↔ t = respond s st r := by
  simp only [raise, Host.Outcome.next.injEq]
  exact eq_comm

theorem loadAcc_next_iff {v : Word} : loadAcc s v = .next t ↔ t = respond (setAcc s v) .ok (crcResult v) :=
  finish_next_iff

/-- ENCODE either refuses the command with its check's status, or returns the frame of its mode. -/
theorem encodeCommand_cases (d : Descriptor) (s : State) :
    (cmdCheck d ≠ .ok ∧ encodeCommand d s = raise s (cmdCheck d) blank) ∨
    (cmdCheck d = .ok ∧ ∃ m, modeOf d.mode = some m ∧ encodeCommand d s = finish s (encodeResult m d)) := by
  by_cases h : cmdCheck d = .ok
  · refine .inr ⟨h, ?_⟩
    obtain ⟨m, hm⟩ := Option.ne_none_iff_exists'.mp ((cmdCheck_ok_iff d).mp h).1
    exact ⟨m, hm, by simp [encodeCommand, h, hm]⟩
  · exact .inl ⟨h, by simp [encodeCommand, h]⟩

/-- DECODE fails on the CRC, on the command, or on the response's structure, or returns what it decoded. -/
theorem decodeResponse_cases (d : Descriptor) (r : List Byte) (s : State) :
    (crcOk r = false ∧ decodeResponse d r s = raise s .integrityFail (decodeFailure d)) ∨
    (crcOk r = true ∧ cmdCheck d ≠ .ok ∧ decodeResponse d r s = raise s (cmdCheck d) (decodeFailure d)) ∨
    (crcOk r = true ∧ cmdCheck d = .ok ∧ ∃ m, modeOf d.mode = some m ∧
      ((perMode m d r = none ∧ decodeResponse d r s = raise s .errFormat (decodeFailure d)) ∨
       (∃ x, perMode m d r = some x ∧ decodeResponse d r s = finish s (decodeResult m d r x)))) := by
  cases hr : crcOk r with
  | false => exact .inl ⟨rfl, by simp [decodeResponse, hr]⟩
  | true =>
    by_cases h : cmdCheck d = .ok
    · obtain ⟨m, hm⟩ := Option.ne_none_iff_exists'.mp ((cmdCheck_ok_iff d).mp h).1
      refine .inr (.inr ⟨rfl, h, m, hm, ?_⟩)
      cases hx : perMode m d r with
      | none => exact .inl ⟨rfl, by simp [decodeResponse, hr, h, hm, hx]⟩
      | some x => exact .inr ⟨x, rfl, by simp [decodeResponse, hr, h, hm, hx]⟩
    · exact .inr (.inl ⟨rfl, h, by simp [decodeResponse, hr, h]⟩)

/-- The comparison under the mask, byte by byte, for a mask with one bit per template byte. -/
theorem matchesTemplate_iff (t : List Byte) (m : List Bool) (r : List Byte) (h : m.length = t.length) :
    matchesTemplate t m r = true ↔
      r.length = t.length ∧ ∀ i, i < r.length → m[i]? = some false ∨ r[i]? = t[i]? := by
  induction t generalizing m r with
  | nil => cases r <;> simp [matchesTemplate]
  | cons x t ih =>
    cases m with
    | nil => simp at h
    | cons b m =>
      cases r with
      | nil => simp [matchesTemplate]
      | cons y r =>
        simp only [List.length_cons, Nat.add_right_cancel_iff] at h
        simp only [matchesTemplate, Bool.and_eq_true, ih m r h]
        constructor
        · rintro ⟨h1, h2, h3⟩
          refine ⟨by simp [h2], fun i hi => ?_⟩
          cases i with
          | zero => simpa using h1
          | succ i => simpa using h3 i (by simpa using hi)
        · rintro ⟨h1, h2⟩
          exact ⟨by simpa using h2 0 (by simp), by simpa using h1,
            fun i hi => by simpa using h2 (i + 1) (by simpa using hi)⟩

/-- A template has one mask bit per byte. -/
@[simp] theorem length_build_tmask (m : Mode) (d : Descriptor) :
    (build m d).tmask.length = (build m d).template.length := by
  cases m <;> simp [build, body, readBody, singleWriteBody, multipleWriteBody]

end Sys2Proof.Machine
end

