-- ==== Sys2Proof/Laws/Exec.lean ====
section
/-! SUPPORT. What performing an instruction can do, said once: it ends the request, with `ACC` possibly rewritten. -/

namespace Sys2Proof.Machine

/-- How an instruction ends: a value for `ACC`, a status and the response fields, where only a writer of `ACC` changes
it, and a writer never fails. -/
def EndsAs (i : Instr) (s : State) (v : Word) (st : Status) (r : Response) : Prop :=
  exec i s = .next (respond (setAcc s v) st r) ∧ (v = s.acc ∨ (writesAcc i = true ∧ st = .ok)) ∧
    st ≠ .errUnsupportedOp

theorem endsAs_finish {i : Instr} {s : State} {r : Response} (h : exec i s = finish s r) :
    EndsAs i s s.acc .ok r := ⟨h, .inl rfl, by decide⟩

theorem endsAs_raise {i : Instr} {s : State} {st : Status} {r : Response} (h : exec i s = raise s st r)
    (hst : st ≠ .errUnsupportedOp) : EndsAs i s s.acc st r := ⟨h, .inl rfl, hst⟩

theorem cmdCheck_ne_unsupportedOp (d : Descriptor) : cmdCheck d ≠ .errUnsupportedOp := by
  rcases cmdCheck_cases d with h | h | h | h | h <;> simp [h]

theorem encode_endsAs {i : Instr} {d : Descriptor} {s : State} (h : exec i s = encodeCommand d s) :
    ∃ st r, EndsAs i s s.acc st r := by
  rcases encodeCommand_cases d s with ⟨-, e⟩ | ⟨-, m, -, e⟩
  · exact ⟨_, _, endsAs_raise (h.trans e) (cmdCheck_ne_unsupportedOp d)⟩
  · exact ⟨_, _, endsAs_finish (h.trans e)⟩

theorem decode_endsAs {i : Instr} {d : Descriptor} {b : List Byte} {s : State} (h : exec i s = decodeResponse d b s) :
    ∃ st r, EndsAs i s s.acc st r := by
  rcases decodeResponse_cases d b s with ⟨-, e⟩ | ⟨-, -, e⟩ | ⟨-, -, m, -, ⟨-, e⟩ | ⟨x, -, e⟩⟩
  · exact ⟨_, _, endsAs_raise (h.trans e) (by decide)⟩
  · exact ⟨_, _, endsAs_raise (h.trans e) (cmdCheck_ne_unsupportedOp d)⟩
  · exact ⟨_, _, endsAs_raise (h.trans e) (by decide)⟩
  · exact ⟨_, _, endsAs_finish (h.trans e)⟩

/-- What ending a request with OK leaves, in the words of the claims. -/
theorem respond_ok (s : State) (r : Response) : respond s .ok r = afterOk s r := by
  simp [respond, afterOk, isMisuse]

/-- What ending a request with a misuse status leaves. -/
theorem respond_misuse_status {st : Status} (h : isMisuse st = true) (s : State) (r : Response) :
    respond s st r = afterMisuse s st r := by
  simp [respond, afterMisuse, h]

/-- What ending a request with a device-class status leaves. -/
theorem respond_device_status {st : Status} (h : isMisuse st = false) (s : State) (r : Response) :
    respond s st r = afterDeviceFault s st r := by
  simp [respond, afterDeviceFault, h]

/-- Every instruction ends (R112): the one lemma about all of `exec`. -/
theorem exec_endsAs (i : Instr) (s : State) : ∃ v st r, EndsAs i s v st r := by
  cases i with
  | crcInit => exact ⟨_, _, _, rfl, .inr ⟨rfl, rfl⟩, by decide⟩
  | crcUpdate b => exact ⟨_, _, _, rfl, .inr ⟨rfl, rfl⟩, by decide⟩
  | crcBlock buf => exact ⟨_, _, _, rfl, .inr ⟨rfl, rfl⟩, by decide⟩
  | crcVerify buf =>
    by_cases h : buf.length < 2
    · exact ⟨_, _, _, endsAs_raise (by simp only [exec, execCrcVerify, if_pos h]; rfl) (by decide)⟩
    · by_cases hc : bodyCrc buf = crcField buf
      · exact ⟨_, _, _, endsAs_finish (by simp only [exec, execCrcVerify, if_neg h, if_pos hc]; rfl)⟩
      · exact ⟨_, _, _, endsAs_raise (by simp only [exec, execCrcVerify, if_neg h, if_neg hc]; rfl) (by decide)⟩
  | crcRead => exact ⟨_, _, _, endsAs_finish rfl⟩
  | encode d => exact ⟨_, encode_endsAs rfl⟩
  | decode d b => exact ⟨_, decode_endsAs rfl⟩
  | lookupName r =>
    cases h : entryOf r with
    | none => exact ⟨_, _, _, endsAs_raise (by simp only [exec, execLookupName, h]; rfl) (by decide)⟩
    | some e => exact ⟨_, _, _, endsAs_finish (by simp only [exec, execLookupName, h]; rfl)⟩
  | lookupAddr a =>
    cases h : regOfAddr a with
    | none => exact ⟨_, _, _, endsAs_raise (by simp only [exec, execLookupAddr, h]; rfl) (by decide)⟩
    | some r => exact ⟨_, _, _, endsAs_finish (by simp only [exec, execLookupAddr, h]; rfl)⟩
  | orderIndex r =>
    cases h : unknownReg r with
    | true => exact ⟨_, _, _, endsAs_raise (by simp only [exec, execOrderIndex, h]; rfl) (by decide)⟩
    | false => exact ⟨_, _, _, endsAs_finish (by simp only [exec, execOrderIndex, h]; rfl)⟩
  | resolveWindow r c =>
    cases h : unknownReg r with
    | true => exact ⟨_, _, _, endsAs_raise (by simp only [exec, execResolveWindow, h]; rfl) (by decide)⟩
    | false =>
      by_cases hs : c = 0#8 ∨ Config.nreg < r.toNat + c.toNat
      · exact ⟨_, _, _, endsAs_raise (by simp only [exec, execResolveWindow, h, if_pos hs]; rfl) (by decide)⟩
      · exact ⟨_, _, _, endsAs_finish (by simp only [exec, execResolveWindow, h, if_neg hs]; rfl)⟩
  | frameReadRequest a r c => exact ⟨_, encode_endsAs rfl⟩
  | frameSingleWriteRequest c => exact ⟨_, encode_endsAs rfl⟩
  | frameMultipleWriteRequest c => exact ⟨_, encode_endsAs rfl⟩
  | frameReadResponse c a vs k => exact ⟨_, decode_endsAs rfl⟩
  | frameSingleWriteResponse c a x y k => exact ⟨_, decode_endsAs rfl⟩
  | frameMultipleWriteResponse c a x y k => exact ⟨_, decode_endsAs rfl⟩

end Sys2Proof.Machine
end

