-- ==== Sys2Proof/Laws/PerInstr.lean ====
section
/-! SUPPORT. Families of lemmas over all instructions, one lemma per constructor. -/

namespace Sys2Proof.Laws.EncodedLength

-- One lemma at a time: side by side, each takes a thread of its own.
set_option Elab.async false

open Machine

/-- The length column of spec/opcode_table.json (R43, R54 to R58). -/
def tableLength : Instr → Nat
  | .crcInit => 1
  | .crcUpdate _ => 2
  | .crcBlock buf => 3 + buf.length
  | .crcVerify buf => 3 + buf.length
  | .crcRead => 1
  | .encode d => 6 + 2 * d.data.length
  | .decode d rsp => 8 + 2 * d.data.length + rsp.length
  | .lookupName _ => 2
  | .lookupAddr _ => 3
  | .orderIndex _ => 2
  | .resolveWindow _ _ => 3
  | .frameReadRequest _ _ _ => 8
  | .frameSingleWriteRequest _ => 8
  | .frameMultipleWriteRequest c => 9 + 2 * c.count.toNat
  | .frameReadResponse _ _ values _ => 5 + 2 * values.length
  | .frameSingleWriteResponse _ _ _ _ _ => 8
  | .frameMultipleWriteResponse _ _ _ _ _ => 8

/-- A well-formed instruction's bytes have the length the opcode table gives its row. -/
def Statement (i : Instr) : Prop := i.wf = true → (encode i).length = tableLength i

theorem crcInit : Statement .crcInit := fun _ => rfl
theorem crcUpdate (b : Byte) : Statement (.crcUpdate b) := fun _ => rfl
theorem crcBlock (buf : List Byte) : Statement (.crcBlock buf) := fun _ => by
  simp [encode, bufferBytes, tableLength]; omega
theorem crcVerify (buf : List Byte) : Statement (.crcVerify buf) := fun _ => by
  simp [encode, bufferBytes, tableLength]; omega
theorem crcRead : Statement .crcRead := fun _ => rfl
theorem encode (d : Descriptor) : Statement (.encode d) := fun _ => by
  simp [Sys2Proof.encode, descriptorBytes, tableLength]; omega
theorem decode (d : Descriptor) (rsp : List Byte) : Statement (.decode d rsp) := fun _ => by
  simp [Sys2Proof.encode, descriptorBytes, bufferBytes, tableLength]; omega
theorem lookupName (r : Byte) : Statement (.lookupName r) := fun _ => rfl
theorem lookupAddr (a : Word) : Statement (.lookupAddr a) := fun _ => rfl
theorem orderIndex (r : Byte) : Statement (.orderIndex r) := fun _ => rfl
theorem resolveWindow (r count : Byte) : Statement (.resolveWindow r count) := fun _ => rfl
theorem frameReadRequest (addr start count : Byte) : Statement (.frameReadRequest addr start count) := fun _ => by
  simp [Sys2Proof.encode, readRequestFrame, tableLength]
theorem frameSingleWriteRequest (cmd : CommandArgs) : Statement (.frameSingleWriteRequest cmd) := fun _ => by
  simp [Sys2Proof.encode, singleWriteRequestFrame, tableLength]
theorem frameMultipleWriteRequest (cmd : CommandArgs) : Statement (.frameMultipleWriteRequest cmd) := fun h => by
  simp [Instr.wf] at h
  simp [Sys2Proof.encode, multipleWriteRequestFrame, tableLength, h.2]; omega
theorem frameReadResponse (cmd : CommandArgs) (address : Byte) (values : List Word) (crc : Word) :
    Statement (.frameReadResponse cmd address values crc) := fun _ => by
  simp [Sys2Proof.encode, readResponseFrame, tableLength]; omega
theorem frameSingleWriteResponse (cmd : CommandArgs) (address : Byte) (regAddr value crc : Word) :
    Statement (.frameSingleWriteResponse cmd address regAddr value crc) := fun _ => by
  simp [Sys2Proof.encode, echoFrame, tableLength]
theorem frameMultipleWriteResponse (cmd : CommandArgs) (address : Byte) (startAddr count crc : Word) :
    Statement (.frameMultipleWriteResponse cmd address startAddr count crc) := fun _ => by
  simp [Sys2Proof.encode, echoFrame, tableLength]

end Sys2Proof.Laws.EncodedLength
end

