-- ==== Sys2Proof/Tests/Slice0.lean ====
section
/-! SUPPORT. Tests: terms `WellFormed` refuses, words written out from the spec's encodings, vectors of
spec/95_test_vectors.md and of the rules' examples, and for each obligation with hypotheses a witness that meets them. -/

namespace Sys2Proof.Tests

-- One theorem at a time: kernel evaluations side by side wait for each other, each on a thread of its own.
set_option Elab.async false

open Machine

/-- Bytes from numbers, to write frames as the spec prints them. -/
def bytes (l : List Nat) : List Byte := l.map (BitVec.ofNat 8)

/-- A state that differs from reset in every field. -/
def busy : State := { acc := 0x1234#16, misuse := true, inputs := [.request (bytes [0x05])], response := some blank }

/-- A command descriptor, from numbers. -/
def command (addr mode start count : Nat) (data : List Nat) : Descriptor :=
  { addr := .ofNat 8 addr, mode := .ofNat 8 mode, start := .ofNat 8 start, count := .ofNat 8 count,
    data := data.map (BitVec.ofNat 16) }

/-- A command without its mode, from numbers. -/
def args (addr start count : Nat) (data : List Nat) : CommandArgs :=
  { addr := .ofNat 8 addr, start := .ofNat 8 start, count := .ofNat 8 count, data := data.map (BitVec.ofNat 16) }

/-- The state an instruction leaves. -/
def after (i : Instr) (s : State) : Option State :=
  match exec i s with
  | .next t => some t
  | .fault _ => none
  | .refused _ => none

/-- The response an instruction gives. -/
def answer (i : Instr) (s : State) : Option Response := (after i s).bind State.response

/-- Its status, with some fields of it. -/
def answers {α : Type} (i : Instr) (s : State) (f : Response → α) : Option (Status × α) :=
  (answer i s).map fun r => (r.status, f r)

/-! ### Terms that `WellFormed` refuses -/

theorem test_wf_refuses_long_block : (Instr.crcBlock (List.replicate 257 0#8)).wf = false := by decide +kernel
theorem test_wf_refuses_long_verify : (Instr.crcVerify (List.replicate 257 0#8)).wf = false := by decide +kernel
theorem test_wf_refuses_encode_data : (Instr.encode (command 1 3 0 1 (List.replicate 14 0))).wf = false := by decide
theorem test_wf_refuses_decode_data : (Instr.decode (command 1 3 0 1 (List.replicate 14 0)) []).wf = false := by decide
theorem test_wf_refuses_long_response :
    (Instr.decode (command 1 3 0 1 []) (List.replicate 257 0#8)).wf = false := by decide +kernel
theorem test_wf_refuses_start : (Instr.frameReadRequest 1#8 13#8 1#8).wf = false := by decide
theorem test_wf_refuses_zero_count : (Instr.frameReadRequest 1#8 0#8 0#8).wf = false := by decide
theorem test_wf_refuses_span : (Instr.frameReadRequest 1#8 12#8 2#8).wf = false := by decide
theorem test_wf_refuses_single_span : (Instr.frameSingleWriteRequest (args 1 13 1 [0])).wf = false := by decide
theorem test_wf_refuses_single_count : (Instr.frameSingleWriteRequest (args 1 0 2 [0])).wf = false := by decide
theorem test_wf_refuses_single_data : (Instr.frameSingleWriteRequest (args 1 0 1 [0, 0])).wf = false := by decide
theorem test_wf_refuses_multiple_span : (Instr.frameMultipleWriteRequest (args 1 12 2 [0, 0])).wf = false := by decide
theorem test_wf_refuses_multiple_data : (Instr.frameMultipleWriteRequest (args 1 0 2 [0])).wf = false := by decide
theorem test_wf_refuses_read_response_command :
    (Instr.frameReadResponse (args 1 0 1 (List.replicate 14 0)) 1#8 [] 0#16).wf = false := by decide
theorem test_wf_refuses_read_response_values :
    (Instr.frameReadResponse (args 1 0 1 []) 1#8 (List.replicate 126 0#16) 0#16).wf = false := by decide +kernel
theorem test_wf_refuses_single_response_command :
    (Instr.frameSingleWriteResponse (args 1 0 1 (List.replicate 14 0)) 1#8 0#16 0#16 0#16).wf = false := by decide
theorem test_wf_refuses_multiple_response_command :
    (Instr.frameMultipleWriteResponse (args 1 0 1 (List.replicate 14 0)) 1#8 0#16 1#16 0#16).wf = false := by decide

/-! ### Words written out from R43 to R49 and R54 to R57 -/

theorem test_decode_crc_init : decode (bytes [0x01]) = .ok .crcInit := by decide +kernel
theorem test_decode_crc_update : decode (bytes [0x02, 0xA5]) = .ok (.crcUpdate 0xA5#8) := by decide +kernel
theorem test_decode_crc_block :
    decode (bytes [0x03, 0x00, 0x03, 0x31, 0x32, 0x33]) = .ok (.crcBlock (bytes [0x31, 0x32, 0x33])) := by decide +kernel
theorem test_decode_crc_verify :
    decode (bytes [0x04, 0x00, 0x02, 0xFF, 0xFF]) = .ok (.crcVerify (bytes [0xFF, 0xFF])) := by decide +kernel
theorem test_decode_crc_read : decode (bytes [0x05]) = .ok .crcRead := by decide +kernel
/-- R77's example. -/
theorem test_decode_encode :
    decode (bytes [0x10, 0x01, 0x10, 0x00, 0x02, 0x02, 0x04, 0xB0, 0x03, 0xE8]) =
      .ok (.encode (command 1 0x10 0 2 [1200, 1000])) := by decide +kernel
theorem test_decode_decode :
    decode (bytes [0x20, 0x07, 0x06, 0x09, 0x01, 0x01, 0x12, 0x34, 0x00, 0x01, 0x00]) =
      .ok (.decode (command 7 6 9 1 [0x1234]) (bytes [0x00])) := by decide +kernel
theorem test_decode_lookup_name : decode (bytes [0x30, 0x0C]) = .ok (.lookupName 12#8) := by decide +kernel
theorem test_decode_lookup_addr : decode (bytes [0x31, 0x01, 0x02]) = .ok (.lookupAddr 0x0102#16) := by decide +kernel
theorem test_decode_order_index : decode (bytes [0x32, 0x0C]) = .ok (.orderIndex 12#8) := by decide +kernel
theorem test_decode_resolve_window : decode (bytes [0x33, 0x02, 0x03]) = .ok (.resolveWindow 2#8 3#8) := by decide +kernel
/-- R75's example frame. -/
theorem test_decode_read_request :
    decodeRequestFrame (bytes [0x01, 0x03, 0x00, 0x02, 0x00, 0x03, 0xA4, 0x0B]) = .ok (.frameReadRequest 1#8 2#8 3#8) := by
  decide +kernel
/-- R76's example frame. -/
theorem test_decode_single_write_request :
    decodeRequestFrame (bytes [0x01, 0x06, 0x00, 0x09, 0x00, 0x01, 0x98, 0x08]) =
      .ok (.frameSingleWriteRequest (args 1 9 1 [1])) := by decide +kernel
/-- R77's example frame. -/
theorem test_decode_multiple_write_request :
    decodeRequestFrame (bytes [0x01, 0x10, 0x00, 0x00, 0x00, 0x02, 0x04, 0x04, 0xB0, 0x03, 0xE8, 0xF3, 0xC6]) =
      .ok (.frameMultipleWriteRequest (args 1 0 2 [1200, 1000])) := by decide +kernel
/-- R82's example response. -/
theorem test_decode_read_response :
    decodeResponseFrame .read (args 1 0 2 []) (bytes [0x01, 0x03, 0x04, 0x04, 0xD2, 0x01, 0xF4, 0x5B, 0x2D]) =
      .ok (.frameReadResponse (args 1 0 2 []) 1#8 [1234#16, 500#16] 0x2D5B#16) := by decide +kernel
/-- R85's example response. -/
theorem test_decode_single_write_response :
    decodeResponseFrame .singleWrite (args 1 9 1 [1]) (bytes [0x01, 0x06, 0x00, 0x01, 0x00, 0x05, 0x18, 0x09]) =
      .ok (.frameSingleWriteResponse (args 1 9 1 [1]) 1#8 1#16 5#16 0x0918#16) := by decide +kernel
/-- R86's example response. -/
theorem test_decode_multiple_write_response :
    decodeResponseFrame .multipleWrite (args 1 0 2 [1200, 1000]) (bytes [0x01, 0x10, 0x00, 0x00, 0x00, 0x02, 0x41, 0xC8]) =
      .ok (.frameMultipleWriteResponse (args 1 0 2 [1200, 1000]) 1#8 0#16 2#16 0xC841#16) := by decide +kernel
/-- A request frame whose CRC bytes are swapped is refused by name (R52). -/
theorem test_frame_refuses_swapped_crc :
    decodeRequestFrame (bytes [0x01, 0x03, 0x00, 0x00, 0x00, 0x02, 0x0B, 0xC4]) = .error .badCrc := by decide +kernel

/-- No two operation codes of R43 are the same byte. -/
theorem test_op_codes_distinct : opTable.Pairwise fun x y => x.1 ≠ y.1 := by decide
/-- The last undefined code, and a request with a byte too many (R50, R51). -/
theorem test_parse_refuses :
    decode (bytes [0xFF]) = .error .unsupportedOp ∧ decode (bytes [0x05, 0x00]) = .error .wrongLength ∧
      decode (bytes [0x03, 0x01, 0x01]) = .error .overLimit ∧ decode [] = .error .emptyRequest := by decide +kernel
/-- The table's word for FRAME_READ_REQUEST has its function code in byte 0, where requests have their operation code:
the word begins a CRC_BLOCK request (log entry 9). -/
theorem test_table_words :
    decodeTableWord 8 0x01 = some .crcInit ∧ decodeTableWord 16 0xA502 = some (.crcUpdate 0xA5#8) ∧
      decodeTableWord 8 0x03 = some (.crcBlock []) := by decide +kernel

/-! ### One step against the spec's vectors -/

/-- R68's example. -/
theorem test_crc_update : answers (.crcUpdate 0x01#8) State.reset (fun r => (r.crc, r.crcBytes)) =
    some (.ok, 0x807E#16, bytes [0x7E, 0x80]) := by decide +kernel
theorem test_crc_init : (after .crcInit busy).map (fun t => (t.acc, t.misuse)) = some (0xFFFF#16, true) := by
  decide +kernel
/-- R69's example. -/
theorem test_crc_block :
    answers (.crcBlock (bytes [0x31, 0x32, 0x33, 0x34, 0x35, 0x36, 0x37, 0x38, 0x39])) busy (fun r => (r.crc, r.crcBytes)) =
      some (.ok, 0x4B37#16, bytes [0x37, 0x4B]) := by decide +kernel
/-- R70's two examples. -/
theorem test_crc_verify_match :
    answers (.crcVerify (bytes [0x01, 0x03, 0x00, 0x00, 0x00, 0x02, 0xC4, 0x0B])) busy (fun r => (r.crcMatch, r.crc)) =
      some (.ok, true, 0x0BC4#16) := by decide +kernel
theorem test_crc_verify_swapped :
    answers (.crcVerify (bytes [0x01, 0x03, 0x00, 0x00, 0x00, 0x02, 0x0B, 0xC4])) busy (fun r => (r.crcMatch, r.crc)) =
      some (.integrityFail, false, 0x0BC4#16) := by decide +kernel
theorem test_crc_read : answers .crcRead busy (fun r => (r.crc, r.crcBytes)) =
    some (.ok, 0x1234#16, bytes [0x34, 0x12]) := by decide +kernel
/-- R60's example, and a register without a range. -/
theorem test_lookup_name :
    answers (.lookupName 0#8) State.reset (fun r => (r.lkAddr, r.lkHasRange, r.lkMin, r.lkMax)) =
      some (.ok, 0#16, true, 0#16, 50#16) := by decide +kernel
theorem test_lookup_name_no_range :
    answers (.lookupName 12#8) State.reset (fun r => (r.lkAddr, r.lkHasRange, r.lkMin, r.lkMax)) =
      some (.ok, 12#16, false, 0#16, 0#16) := by decide +kernel
/-- R61's example, and the corner case 0x0100. -/
theorem test_lookup_addr : answers (.lookupAddr 0x000A#16) State.reset Response.lkReg = some (.ok, 10#8) := by
  decide +kernel
theorem test_lookup_addr_high_byte :
    answers (.lookupAddr 0x0100#16) State.reset Response.misuse = some (.errUnknownRegister, true) := by decide +kernel
/-- R62's example. -/
theorem test_order_index : answers (.orderIndex 12#8) State.reset Response.lkOrd = some (.ok, 12#8) := by decide +kernel
/-- R63's example, and a corner case. -/
theorem test_resolve_window :
    answers (.resolveWindow 2#8 3#8) State.reset (fun r => (r.count, r.regs)) = some (.ok, 3#8, bytes [2, 3, 4]) := by
  decide +kernel
theorem test_resolve_window_past_end :
    answers (.resolveWindow 12#8 2#8) State.reset (fun r => (r.count, r.regs)) = some (.errSpan, 0#8, []) := by
  decide +kernel
/-- R74's example, and R77's. -/
theorem test_encode_read :
    answers (.encode (command 1 3 0 2 [])) State.reset (fun r => (r.frame, r.template, r.tmask, r.expLen)) =
      some (.ok, bytes [0x01, 0x03, 0x00, 0x00, 0x00, 0x02, 0xC4, 0x0B],
        bytes [0x01, 0x03, 0x04, 0x00, 0x00, 0x00, 0x00, 0xFA, 0x33],
        [true, true, true, false, false, false, false, false, false], 9#8) := by decide +kernel
theorem test_encode_multiple_write :
    answers (.encode (command 1 0x10 0 2 [1200, 1000])) State.reset (fun r => (r.frame, r.template)) =
      some (.ok, bytes [0x01, 0x10, 0x00, 0x00, 0x00, 0x02, 0x04, 0x04, 0xB0, 0x03, 0xE8, 0xF3, 0xC6],
        bytes [0x01, 0x10, 0x00, 0x00, 0x00, 0x02, 0x41, 0xC8]) := by decide +kernel
/-- R82's example, and R84's window past VERSION. -/
theorem test_decode_end_to_end :
    answers (.decode (command 1 3 0 2 []) (bytes [0x01, 0x03, 0x04, 0x04, 0xD2, 0x01, 0xF4, 0x5B, 0x2D])) State.reset
      (fun r => (r.valid, r.tmatch, [r.address, r.mode, r.count] ++ r.regs, r.values)) =
      some (.ok, true, true, bytes [1, 3, 2, 0, 1], [1234#16, 500#16]) := by decide +kernel
theorem test_decode_window_past_end :
    answers (.decode (command 1 3 12 1 []) (bytes [0x01, 0x03, 0x04, 0x00, 0x01, 0x00, 0x02, 0x2A, 0x32])) State.reset
      (fun r => (r.valid, r.mode, r.misuse)) = some (.errFormat, false, 3#8, false) := by decide +kernel
theorem test_frame_read_request :
    answers (.frameReadRequest 1#8 2#8 3#8) State.reset (fun r => (r.frame, r.template)) =
      some (.ok, bytes [0x01, 0x03, 0x00, 0x02, 0x00, 0x03, 0xA4, 0x0B],
        bytes [0x01, 0x03, 0x06, 0x00, 0x00, 0x00, 0x00, 0x00, 0x00, 0x21, 0x75]) := by decide +kernel
/-- R76's example. -/
theorem test_frame_single_write_request :
    answers (.frameSingleWriteRequest (args 1 9 1 [1])) State.reset (fun r => (r.frame, r.template)) =
      some (.ok, bytes [0x01, 0x06, 0x00, 0x09, 0x00, 0x01, 0x98, 0x08],
        bytes [0x01, 0x06, 0x00, 0x09, 0x00, 0x01, 0x98, 0x08]) := by decide +kernel
theorem test_frame_multiple_write_request :
    answers (.frameMultipleWriteRequest (args 1 0 2 [1200, 1000])) State.reset Response.template =
      some (.ok, bytes [0x01, 0x10, 0x00, 0x00, 0x00, 0x02, 0x41, 0xC8]) := by decide +kernel
theorem test_frame_read_response :
    answers (.frameReadResponse (args 1 0 2 []) 1#8 [1234#16, 500#16] 0x2D5B#16) State.reset
      (fun r => (r.tmatch, r.values)) = some (.ok, true, [1234#16, 500#16]) := by decide +kernel
/-- R85's echo of another register. -/
theorem test_frame_single_write_response :
    answers (.frameSingleWriteResponse (args 1 9 1 [1]) 1#8 1#16 5#16 0x0918#16) State.reset
      (fun r => (r.tmatch, r.regs, r.values)) = some (.ok, false, [1#8], [5#16]) := by decide +kernel
/-- R86's echoed count 3. -/
theorem test_frame_multiple_write_response :
    answers (.frameMultipleWriteResponse (args 1 0 2 [1200, 1000]) 1#8 0#16 3#16 0x0880#16) State.reset Response.valid =
      some (.errFormat, false) := by decide +kernel
/-- R59's example of R76: the pseudo-instruction WRITE1 with a register name. -/
theorem test_host_write1 :
    assemble (.write1 1#8 (.name .onOff) 1#16) = bytes [0x10, 0x01, 0x06, 0x09, 0x01, 0x01, 0x00, 0x01] := by decide +kernel
/-- The name of each catalog entry stands for its ordinal (R18). -/
theorem test_register_names :
    catalog.map (fun e => (nameText e.name, regOfName e.name)) =
      [("V-SET", 0#8), ("I-SET", 1#8), ("V-OUT", 2#8), ("I-OUT", 3#8), ("POWER", 4#8), ("V-IN", 5#8), ("LOCK", 6#8),
       ("PROTECT", 7#8), ("CV/CC", 8#8), ("ON/OFF", 9#8), ("B-LED", 10#8), ("MODEL", 11#8), ("VERSION", 12#8)] := by
  decide +kernel

/-! ### Witnesses: the hypotheses of each obligation can be met, at the boundaries of its clauses -/

/-- A state whose next input is a request. -/
def asked (q : List Nat) : State := { busy with inputs := [.request (bytes q), .reset] }

theorem witness_crc_init_refused : (asked [0x01, 0x00]).inputs = .request [0x01#8, 0x00#8] :: [.reset] := rfl
/-- For CrcBlockChecksumsBuffer, CrcVerifyComparesTrailingCrc and CrcStreamEqualsBlock: the longest buffer and the empty one. -/
theorem witness_buffer : (List.replicate 256 0#8).length ≤ 256 ∧ ([] : List Byte).length ≤ 256 := by decide +kernel
/-- For the clauses of CrcVerifyComparesTrailingCrc. -/
theorem witness_crc_verify :
    (bytes [0x00]).length < 2 ∧ 0xFFFF#16 = crc16 [] ∧ 0x0BC4#16 = crc16 (bytes [1, 3, 0, 0, 0, 2]) ∧ 0x0000#16 ≠ crc16 [] := by
  decide +kernel
theorem witness_single_bit :
    crcOk (bytes [0x01, 0x03, 0x00, 0x00, 0x00, 0x02, 0xC4, 0x0B]) = true ∧ 7 < 8 ∧ crcOk (bytes [0xFF, 0xFF]) = true ∧
      1 < (bytes [0xFF, 0xFF]).length := by decide +kernel
/-- For LookupNameReturnsEntry, OrderIndexReturnsOrdinal and CatalogMapsAreInverse. -/
theorem witness_register : (12#8).toNat < 13 ∧ 13 ≤ (13#8).toNat ∧ 13 ≤ (255#8).toNat := by decide
theorem witness_address : (12#16).toNat ≤ 12 ∧ 12 < (13#16).toNat ∧ 12 < (0x0100#16).toNat := by decide
/-- For ResolveWindowStaysInCatalog, clause by clause: (12, 1) and (0, 13); (12, 2), (0, 0) and (0, 255); 13. -/
theorem witness_window :
    (0 < (1#8).toNat ∧ (12#8).toNat + (1#8).toNat ≤ 13) ∧ (0 < (13#8).toNat ∧ (0#8).toNat + (13#8).toNat ≤ 13) ∧
      ((12#8).toNat < 13 ∧ 13 < (12#8).toNat + (2#8).toNat) ∧ ((0#8).toNat < 13 ∧ (0#8).toNat = 0) ∧
      13 < (0#8).toNat + (255#8).toNat ∧ 13 ≤ (13#8).toNat := by decide
/-- For EncodeReadBuildsFrame, EncodeSingleWriteBuildsFrame and EncodeMultipleWriteBuildsFrame: the longest span, and the
last register alone. -/
theorem witness_command :
    ((0#8).toNat < 13 ∧ 0 < (13#8).toNat ∧ (0#8).toNat + (13#8).toNat ≤ 13 ∧ (List.replicate 13 7#16).length = (13#8).toNat) ∧
      ((12#8).toNat < 13 ∧ 0 < (1#8).toNat ∧ (12#8).toNat + (1#8).toNat ≤ 13 ∧ [7#16].length = (1#8).toNat) := by decide
/-- For EncodeRefusesInOrder: an unsupported mode, and in each mode a refused command. -/
theorem witness_refused_commands :
    [command 1 4 13 0 [], command 1 3 13 1 [], command 1 6 0 2 [1], command 1 6 0 1 [], command 1 0x10 0 2 [1]].map cmdCheck =
      [.errUnsupportedMode, .errUnknownRegister, .errSpan, .errData, .errData] := by decide +kernel
/-- For EncodeExpectedLength, EncodeTemplateMask, EncodeSignsFrameAndTemplate and EncodeFrameIsItsWireForm: an accepted
ENCODE in each mode. -/
theorem witness_encode_accepts (m : Mode) :
    ∃ (d : Descriptor) (t : State) (r : Response), d.mode = modeCode m ∧ exec (.encode d) busy = .next t ∧
      t.response = some r ∧ r.status = .ok := by
  cases m
  · exact ⟨command 1 3 0 13 [], _, _, rfl, rfl, rfl, rfl⟩
  · exact ⟨command 1 6 12 1 [1], _, _, rfl, rfl, rfl, rfl⟩
  · exact ⟨command 1 0x10 11 2 [1, 2], _, _, rfl, rfl, rfl, rfl⟩
theorem witness_bad_crc : crcOk (bytes [0x01, 0x03, 0x00, 0x00]) = false ∧ crcOk [] = false := by decide +kernel
theorem witness_decode_refuses :
    ∃ (t : State) (r : Response), crcOk (bytes [0xFF, 0xFF]) = true ∧ exec (.encode (command 1 3 13 1 [])) busy = .next t ∧
      t.response = some r ∧ r.status ≠ .ok :=
  ⟨_, _, by decide +kernel, rfl, rfl, by decide⟩
/-- For DecodeReadExtractsValues: a response of two values, an empty one, the request frame fed back, a window past the
end and an odd byte count, each with a good CRC. -/
theorem witness_read_responses :
    [signed (bytes [1, 3, 4, 0, 1, 0, 2]), signed (bytes [1, 3, 0]), signed (bytes [1, 3, 0, 0, 0, 2]),
      signed (bytes [1, 3, 4, 0, 1, 0, 2]), signed (bytes [1, 3, 1, 0])].all crcOk = true ∧
    [signed (bytes [1, 3, 4, 0, 1, 0, 2]), signed (bytes [1, 3, 0]), signed (bytes [1, 3, 0, 0, 0, 2]),
      signed (bytes [1, 3, 1, 0])].map (fun r => (decodeRead (command 1 3 11 1 []) r).isSome) = [true, true, false, false] ∧
    decodeRead (command 1 3 12 1 []) (signed (bytes [1, 3, 4, 0, 1, 0, 2])) = none := by decide +kernel
/-- For DecodeSingleWriteExtractsEcho: an echo of register 12, of address 13, and a response too long. -/
theorem witness_single_write_responses :
    [signed (bytes [1, 6, 0, 12, 0, 5]), signed (bytes [1, 6, 0, 13, 0, 5]), signed (bytes [1, 6, 0, 12, 0, 5, 0])].all crcOk
      = true ∧
    [signed (bytes [1, 6, 0, 12, 0, 5]), signed (bytes [1, 6, 0, 13, 0, 5]), signed (bytes [1, 6, 0, 12, 0, 5, 0])].map
      (fun r => (decodeSingleWrite r).isSome) = [true, false, false] := by decide +kernel
/-- For DecodeMultipleWriteChecksEcho: the command's echo, another start, another count. -/
theorem witness_multiple_write_responses :
    [signed (bytes [1, 0x10, 0, 0, 0, 2]), signed (bytes [1, 0x10, 0, 1, 0, 2]), signed (bytes [1, 0x10, 0, 0, 0, 3])].all crcOk
      = true ∧
    [signed (bytes [1, 0x10, 0, 0, 0, 2]), signed (bytes [1, 0x10, 0, 1, 0, 2]), signed (bytes [1, 0x10, 0, 0, 0, 3])].map
      (fun r => (decodeMultipleWrite (command 1 0x10 0 2 [1, 2]) r).isSome) = [true, false, false] := by decide +kernel
/-- For DecodeTemplateMatch: a match, a success without a match, and a failure. -/
theorem witness_template_match :
    [bytes [0x01, 0x06, 0x00, 0x09, 0x00, 0x01, 0x98, 0x08], bytes [0x01, 0x06, 0x00, 0x01, 0x00, 0x05, 0x18, 0x09],
      bytes [0x00]].map (fun r => answers (.decode (command 1 6 9 1 [1]) r) busy Response.tmatch) =
      [some (.ok, true), some (.ok, false), some (.integrityFail, false)] := by decide +kernel
/-- For DecodeRoundTrip, DecodeRejectsBitFlips and DeviceResponseFitsTemplate, in each mode, at the last byte and bit. -/
theorem witness_device (m : Mode) :
    ∃ (d : Descriptor) (vals : List Word) (t : State) (r : Response), d.mode = modeCode m ∧ cmdCheck d = .ok ∧
      (m = .read → vals.length = d.count.toNat) ∧ 7 < (devRsp m d vals).length ∧ 7 < 8 ∧ exec (.encode d) busy = .next t ∧
      t.response = some r := by
  cases m
  · exact ⟨command 1 3 11 2 [], [1#16, 2#16], _, _, by decide +kernel, by decide +kernel, by decide +kernel,
      by decide +kernel, by decide, rfl, rfl⟩
  · exact ⟨command 1 6 12 1 [1], [], _, _, by decide +kernel, by decide +kernel, by decide +kernel, by decide +kernel,
      by decide, rfl, rfl⟩
  · exact ⟨command 1 0x10 11 2 [1, 2], [], _, _, by decide +kernel, by decide +kernel, by decide +kernel,
      by decide +kernel, by decide, rfl, rfl⟩
/-- For the three response-frame statements: no value, all thirteen values, the last register. -/
theorem witness_response_frames :
    ((args 1 0 13 []).start.toNat < 13 ∧ 0 < (args 1 0 13 []).count.toNat ∧
      (args 1 0 13 []).start.toNat + (args 1 0 13 []).count.toNat ≤ 13 ∧
      (args 1 0 13 []).start.toNat + (List.replicate 13 7#16).length ≤ 13 ∧
      (args 1 0 13 []).start.toNat + ([] : List Word).length ≤ 13) ∧
    (12#8).toNat < 13 ∧
    ((args 1 11 2 [1, 2]).start.toNat < 13 ∧ 0 < (args 1 11 2 [1, 2]).count.toNat ∧
      (args 1 11 2 [1, 2]).start.toNat + (args 1 11 2 [1, 2]).count.toNat ≤ 13 ∧
      (args 1 11 2 [1, 2]).data.length = (args 1 11 2 [1, 2]).count.toNat) := by decide +kernel
/-- For DecodeRunsItsWireForm, in each mode. -/
theorem witness_wire_form (m : Mode) : ∃ (c : CommandArgs) (r : List Byte) (i : Instr), decodeResponseFrame m c r = .ok i := by
  cases m
  · exact ⟨_, _, _, test_decode_read_response⟩
  · exact ⟨_, _, _, test_decode_single_write_response⟩
  · exact ⟨_, _, _, test_decode_multiple_write_response⟩

theorem witness_step_runs :
    (asked [0x02, 0xA5]).inputs = .request (bytes [0x02, 0xA5]) :: [.reset] ∧
      decode (bytes [0x02, 0xA5]) = .ok (.crcUpdate 0xA5#8) := ⟨rfl, test_decode_crc_update⟩
/-- For UndefinedCodeIsUnsupportedOp: both ends of each range of R50. -/
theorem witness_undefined_codes :
    (bytes [0x00, 0x06, 0x0F, 0x11, 0x1F, 0x21, 0x2F, 0x34, 0xFF]).all (fun b => (opOf b).isNone) = true ∧
      (asked [0x34]).inputs = .request (0x34#8 :: []) :: [.reset] := ⟨by decide +kernel, rfl⟩
/-- For MalformedRequestIsErrData: a defined code, a request too short, one over its limit, and the empty one. -/
theorem witness_malformed :
    opOf 0x33#8 = some .resolveWindow ∧ opOf 0x03#8 = some .crcBlock ∧
      decode (bytes [0x33, 0x00]) = .error .wrongLength ∧ decode (bytes [0x03, 0x01, 0x01]) = .error .overLimit ∧
      (asked []).inputs = .request [] :: [.reset] := ⟨by decide, by decide, by decide +kernel, by decide +kernel, rfl⟩
theorem witness_reset_event : ({ busy with inputs := [.reset, .reset] } : State).inputs = .reset :: [.reset] := rfl
theorem witness_idle : State.reset.inputs = [] := rfl
/-- For EveryRequestCompletes, MisuseFlagRule, FailureKeepsAccumulator and InputsAreTakenInOrder: a failing request in a
state whose flag is set. -/
theorem witness_failing_request :
    ∃ (t : State) (r : Response), (asked [0x30, 0x0D]).inputs = .request (bytes [0x30, 0x0D]) :: [.reset] ∧
      step (asked [0x30, 0x0D]) = .next t ∧ t.response = some r ∧ r.status ≠ .ok :=
  ⟨_, _, rfl, rfl, rfl, by decide⟩
/-- For the last clause of MisuseFlagRule: the flag set before the step and clear after it. -/
theorem witness_flag_cleared :
    ∃ t : State, step { busy with inputs := [.reset] } = .next t ∧ busy.misuse = true ∧ t.misuse = false :=
  ⟨_, rfl, rfl, rfl⟩
/-- For AccumulatorWritersAndReaders: an instruction that changes `ACC`, and one that neither reads nor changes it. -/
theorem witness_accumulator :
    ∃ t u : State, exec .crcInit busy = .next t ∧ t.acc ≠ busy.acc ∧ exec (.lookupName 0#8) busy = .next u ∧
      (∀ b, Instr.lookupName 0#8 ≠ .crcUpdate b) ∧ Instr.lookupName 0#8 ≠ .crcRead :=
  ⟨_, _, rfl, by decide, rfl, (by intro b h; cases h), (by intro h; cases h)⟩
theorem witness_idempotent :
    ∃ t : State, (∀ b, Instr.crcInit ≠ .crcUpdate b) ∧ exec .crcInit busy = .next t := ⟨_, (by intro b h; cases h), rfl⟩
/-- For ResponseDependsOnStateAndRequest: two states that agree in `ACC` and `MISUSE` only. -/
theorem witness_two_hosts :
    ∃ t : State, (asked [0x05]).inputs = .request (bytes [0x05]) :: [.reset] ∧
      ({ asked [0x05] with inputs := [.request (bytes [0x05])], response := none } : State).inputs =
        .request (bytes [0x05]) :: [] ∧
      step (asked [0x05]) = .next t := ⟨_, rfl, rfl, rfl⟩
/-- For PortInvariantKept: a state with a response on its port, and a step of it. -/
theorem witness_port :
    ∃ (s t : State), s.response = some { blank with misuse := true } ∧ PortInv s ∧ step s = .next t := by
  refine ⟨{ asked [0x05] with response := some { blank with misuse := true } }, _, rfl, ?_, rfl⟩
  intro r hr
  cases hr
  refine ⟨⟨.inl rfl, by decide, by decide, rfl, rfl, rfl, ?_, .inl rfl, fun h => ?_, fun h => absurd rfl h⟩, rfl⟩
  · intro x hx; cases hx
  · cases h
/-- For DecodeEncodeRequest, EncodeDecodeRequest and HostSyntaxExpands: the longest DECODE request. -/
theorem witness_request :
    (Instr.decode (command 1 3 0 1 (List.replicate 13 7)) (List.replicate 256 0#8)).wf = true ∧
      isRequest (.decode (command 1 3 0 1 (List.replicate 13 7)) (List.replicate 256 0#8)) = true ∧
      (lineInstr (.writen 1#8 (.name .vSet) (List.replicate 13 7#16))).wf = true ∧
      decode (bytes [0x05]) = .ok .crcRead := by decide +kernel
/-- For CommandRequestLayouts: thirteen values and 256 response bytes, and neither. -/
theorem witness_command_layouts :
    decode ([0x20#8, 1#8, 3#8, 0#8, 1#8, 13#8] ++ (List.replicate 13 7#16).flatMap be16 ++ be16 256#16 ++
        List.replicate 256 0#8) = .ok (.decode (command 1 3 0 1 (List.replicate 13 7)) (List.replicate 256 0#8)) ∧
      decode (bytes [0x10, 1, 3, 0, 1, 0]) = .ok (.encode (command 1 3 0 1 [])) := by decide +kernel
/-- For RequestFrameRoundTrip, RequestFrameCanonical and ResponseFrameRoundTrip. -/
theorem witness_frames :
    (Instr.frameReadRequest 1#8 0#8 13#8).wf = true ∧ (Instr.frameSingleWriteRequest (args 1 12 1 [7])).wf = true ∧
      (Instr.frameMultipleWriteRequest (args 1 0 13 (List.replicate 13 7))).wf = true ∧
      (Instr.frameReadResponse (args 1 0 1 []) 1#8 (List.replicate 125 7#16) 0#16).wf = true ∧
      decodeRequestFrame (bytes [0x01, 0x03, 0x00, 0x02, 0x00, 0x03, 0xA4, 0x0B]) = .ok (.frameReadRequest 1#8 2#8 3#8) := by
  decide +kernel

/-- The step of a state that presents one of the table's words runs it (log entry 5). -/
theorem test_with_fetch_word :
    step (State.reset.withFetchWord 16 0x0102) = exec (.crcUpdate 0x01#8) State.reset := rfl

end Sys2Proof.Tests
end

/-! SUPPORT. The register identifiers and the accumulator: what the catalog's maps answer, and what an instruction's
ending depends on. -/

namespace Sys2Proof.Machine

/-! ### The catalog maps (R19) -/

theorem unknownReg_eq_true_iff (r : Byte) : unknownReg r = true ↔ 13 ≤ r.toNat := by
  simp [unknownReg]

theorem unknownReg_eq_false_iff (r : Byte) : unknownReg r = false ↔ r.toNat < 13 := by
  simp [unknownReg]

@[simp] theorem toNat_zext16 (r : Byte) : (zext16 r).toNat = r.toNat := by
  have hr := r.isLt
  simp only [zext16, BitVec.toNat_setWidth]
  omega

/-- The low byte of a word with high byte 0 is the whole word. -/
theorem zext16_loByte {a : Word} (h : a.toNat < 256) : zext16 (loByte a) = a := by
  apply BitVec.eq_of_toNat_eq
  simp only [toNat_zext16, loByte, BitVec.extractLsb'_toNat, Nat.shiftRight_zero]
  exact Nat.mod_eq_of_lt h

/-- The address map is the inverse of `zext_16` on the addresses 0 to 12, and empty above them. -/
theorem regOfAddr_eq_some_iff (a : Word) (r : Byte) : regOfAddr a = some r ↔ a.toNat ≤ 12 ∧ zext16 r = a := by
  have hlt : 0x000C#16 < a ↔ 12 < a.toNat := BitVec.lt_def
  by_cases h : a.toNat ≤ 12
  · have hlow : regOfAddr a = some (loByte a) := if_neg (hlt.not.mpr (by omega))
    rw [hlow, Option.some.injEq]
    constructor
    · rintro rfl
      exact ⟨h, zext16_loByte (by omega)⟩
    · rintro ⟨-, rfl⟩
      exact loByte_zext16 r
  · have hnone : regOfAddr a = none := if_pos (hlt.mpr (by omega))
    simp [hnone, h]

/-- ORDER_INDEX of a register completes with its identifier (R62). -/
theorem exec_orderIndex_of_lt {r : Byte} (h : r.toNat < 13) (s : State) :
    exec (.orderIndex r) s = finish s { blank with lkOrd := r } := by
  simp [exec, execOrderIndex, (unknownReg_eq_false_iff r).mpr h]

/-- ORDER_INDEX of any other identifier is refused (R62). -/
theorem exec_orderIndex_of_ge {r : Byte} (h : 13 ≤ r.toNat) (s : State) :
    exec (.orderIndex r) s = raise s .errUnknownRegister blank := by
  simp [exec, execOrderIndex, (unknownReg_eq_true_iff r).mpr h]

/-- Settles O14: each clause is one of the catalog's lemmas, read at an identifier below 13 or not below it. -/
theorem catalogMapsAreInverse : Obligations.CatalogMapsAreInverse := by
  refine ⟨fun r h => ⟨addrOf_eq r, ?_, ?_⟩, fun r h => ?_, fun a r => ?_, fun r s h => ?_, fun r s h => ?_⟩
  · rw [addrOf_eq, regOfAddr_eq_some_iff, toNat_zext16]
    exact ⟨by omega, rfl⟩
  · rw [entryOf_isSome, (unknownReg_eq_false_iff r).mpr h]
    rfl
  · rw [← Option.not_isSome_iff_eq_none, entryOf_isSome, (unknownReg_eq_true_iff r).mpr h]
    decide
  · rw [regOfAddr_eq_some_iff, addrOf_eq]
    refine and_congr_right fun ha => ⟨fun hr => ⟨hr, ?_⟩, And.left⟩
    rw [← toNat_zext16, hr]
    omega
  · exact ⟨_, _, exec_orderIndex_of_lt h s, rfl, rfl⟩
  · exact ⟨_, _, exec_orderIndex_of_ge h s, rfl, rfl⟩

/-! ### The accumulator (R13, R28) -/

/-- Settles O40: the two fields of `State.reset`, which the model writes out. -/
theorem resetStateValues : Obligations.ResetStateValues := ⟨rfl, rfl⟩

theorem writesAcc_iff (i : Instr) :
    writesAcc i = true ↔ i = .crcInit ∨ (∃ b, i = .crcUpdate b) ∨ ∃ buf, i = .crcBlock buf := by
  cases i <;> simp [writesAcc]

/-- An instruction that changes `ACC` is one of its writers (R13). -/
theorem writesAcc_of_acc_ne {i : Instr} {s t : State} (h : exec i s = .next t) (hne : t.acc ≠ s.acc) :
    writesAcc i = true := by
  obtain ⟨v, st, r, hexec, hacc, -⟩ := exec_endsAs i s
  obtain rfl : respond (setAcc s v) st r = t := Host.Outcome.next.inj (hexec.symm.trans h)
  exact (hacc.resolve_left hne).1

/-- The instruction ends alike in every state: with this status and these response fields, and with `ACC` at the value
`w` gives or, where it gives none, as it was. It reads nothing of the state but the flag that `respond` keeps. -/
def EndsAlike (i : Instr) (w : Option Word) (st : Status) (r : Response) : Prop :=
  ∀ s : State, exec i s = .next (respond (setAcc s (w.getD s.acc)) st r)

theorem endsAlike_finish {i : Instr} {r : Response} (h : ∀ s, exec i s = finish s r) : EndsAlike i none .ok r := h

theorem endsAlike_raise {i : Instr} {st : Status} {r : Response} (h : ∀ s, exec i s = raise s st r) :
    EndsAlike i none st r := h

/-- What ENCODE returns depends on the command alone. -/
theorem encode_endsAlike {i : Instr} {d : Descriptor} (h : ∀ s, exec i s = encodeCommand d s) :
    ∃ w st r, EndsAlike i w st r := by
  by_cases hc : cmdCheck d = .ok
  · obtain ⟨hmode, -⟩ := (cmdCheck_ok_iff d).mp hc
    obtain ⟨m, hm⟩ := Option.ne_none_iff_exists'.mp hmode
    exact ⟨_, _, _, endsAlike_finish (r := encodeResult m d) fun s => by simp [h, encodeCommand, hc, hm]⟩
  · exact ⟨_, _, _, endsAlike_raise (st := cmdCheck d) (r := blank) fun s => by simp [h, encodeCommand, hc]⟩

/-- What DECODE returns depends on the command and the response bytes alone. -/
theorem decode_endsAlike {i : Instr} {d : Descriptor} {b : List Byte} (h : ∀ s, exec i s = decodeResponse d b s) :
    ∃ w st r, EndsAlike i w st r := by
  cases hb : crcOk b with
  | false =>
    exact ⟨_, _, _, endsAlike_raise (st := .integrityFail) (r := decodeFailure d) fun s => by
      simp [h, decodeResponse, hb]⟩
  | true =>
    by_cases hc : cmdCheck d = .ok
    · obtain ⟨hmode, -⟩ := (cmdCheck_ok_iff d).mp hc
      obtain ⟨m, hm⟩ := Option.ne_none_iff_exists'.mp hmode
      cases hx : perMode m d b with
      | none =>
        exact ⟨_, _, _, endsAlike_raise (st := .errFormat) (r := decodeFailure d) fun s => by
          simp [h, decodeResponse, hb, hc, hm, hx]⟩
      | some x =>
        exact ⟨_, _, _, endsAlike_finish (r := decodeResult m d b x) fun s => by
          simp [h, decodeResponse, hb, hc, hm, hx]⟩
    · exact ⟨_, _, _, endsAlike_raise (st := cmdCheck d) (r := decodeFailure d) fun s => by
        simp [h, decodeResponse, hb, hc]⟩

/-- Only CRC_UPDATE and CRC_READ read `ACC` (R13): every other instruction ends alike in every state. -/
theorem exec_endsAlike (i : Instr) (hupdate : ∀ b, i ≠ .crcUpdate b) (hread : i ≠ .crcRead) :
    ∃ w st r, EndsAlike i w st r := by
  cases i with
  | crcUpdate b => exact absurd rfl (hupdate b)
  | crcRead => exact absurd rfl hread
  | crcInit => exact ⟨some Config.crcInitial, _, _, fun _ => rfl⟩
  | crcBlock buf => exact ⟨some (crc16 buf), _, _, fun _ => rfl⟩
  | crcVerify buf =>
    by_cases h : buf.length < 2
    · exact ⟨_, _, _, endsAlike_raise fun s => if_pos h⟩
    · by_cases hc : bodyCrc buf = crcField buf
      · exact ⟨_, _, _, endsAlike_finish fun s => (if_neg h).trans (if_pos hc)⟩
      · exact ⟨_, _, _, endsAlike_raise fun s => (if_neg h).trans (if_neg hc)⟩
  | encode d => exact encode_endsAlike fun _ => rfl
  | decode d b => exact decode_endsAlike fun _ => rfl
  | lookupName r =>
    cases h : entryOf r with
    | none => exact ⟨_, _, _, endsAlike_raise fun s => by simp only [exec, execLookupName, h]; rfl⟩
    | some e => exact ⟨_, _, _, endsAlike_finish fun s => by simp only [exec, execLookupName, h]; rfl⟩
  | lookupAddr a =>
    cases h : regOfAddr a with
    | none => exact ⟨_, _, _, endsAlike_raise fun s => by simp only [exec, execLookupAddr, h]; rfl⟩
    | some r => exact ⟨_, _, _, endsAlike_finish fun s => by simp only [exec, execLookupAddr, h]; rfl⟩
  | orderIndex r =>
    by_cases h : r.toNat < 13
    · exact ⟨_, _, _, endsAlike_finish (exec_orderIndex_of_lt h)⟩
    · exact ⟨_, _, _, endsAlike_raise (exec_orderIndex_of_ge (Nat.le_of_not_lt h))⟩
  | resolveWindow r c =>
    by_cases h : unknownReg r = true
    · exact ⟨_, _, _, endsAlike_raise fun s => if_pos h⟩
    · by_cases hs : c = 0#8 ∨ Config.nreg < r.toNat + c.toNat
      · exact ⟨_, _, _, endsAlike_raise fun s => (if_neg h).trans (if_pos hs)⟩
      · exact ⟨_, _, _, endsAlike_finish fun s => (if_neg h).trans (if_neg hs)⟩
  | frameReadRequest a r c => exact encode_endsAlike fun _ => rfl
  | frameSingleWriteRequest c => exact encode_endsAlike fun _ => rfl
  | frameMultipleWriteRequest c => exact encode_endsAlike fun _ => rfl
  | frameReadResponse c a vs k => exact decode_endsAlike fun _ => rfl
  | frameSingleWriteResponse c a x y k => exact decode_endsAlike fun _ => rfl
  | frameMultipleWriteResponse c a x y k => exact decode_endsAlike fun _ => rfl

/-- An instruction that ends alike in every state gives the same response and flag whatever `ACC` holds, and leaves
`ACC` as it was or at a value that does not depend on it. -/
theorem EndsAlike.ignores_acc {i : Instr} {w : Option Word} {st : Status} {r : Response} (h : EndsAlike i w st r)
    {s t : State} (ht : exec i s = .next t) (a : Word) :
    ∃ u, exec i { s with acc := a } = .next u ∧ u.response = t.response ∧ u.misuse = t.misuse ∧
      (u.acc = t.acc ∨ (u.acc = a ∧ t.acc = s.acc)) := by
  obtain rfl : respond (setAcc s (w.getD s.acc)) st r = t := Host.Outcome.next.inj ((h s).symm.trans ht)
  refine ⟨_, h _, rfl, rfl, ?_⟩
  cases w with
  | none => exact .inr ⟨rfl, rfl⟩
  | some v => exact .inl rfl

/-- Settles O45: the writers and readers by their meanings, and that there are no others by the two lemmas over all
instructions, `writesAcc_of_acc_ne` and `exec_endsAlike`. -/
theorem accumulatorWritersAndReaders : Obligations.AccumulatorWritersAndReaders := by
  obtain ⟨hreset, -⟩ := resetStateValues
  refine ⟨hreset, fun s => ⟨_, rfl, rfl⟩, fun b s => ⟨_, rfl, rfl⟩, fun buf s => ⟨_, rfl, rfl⟩,
    fun s => ⟨_, _, rfl, rfl, rfl⟩, fun i s t h hne => ?_, fun i s t a hupdate hread ht => ?_⟩
  · exact (writesAcc_iff i).mp (writesAcc_of_acc_ne h hne)
  · obtain ⟨w, st, r, h⟩ := exec_endsAlike i hupdate hread
    exact h.ignores_acc ht a

end Sys2Proof.Machine

/-! SUPPORT. The request parse: what it answers an undefined operation code, and the bytes of the requests that carry a
command. -/

namespace Sys2Proof.Machine

/-! ### Operation codes (R43, R50) -/

/-- The undefined codes are the five ranges of R50. -/
theorem opOf_eq_none_iff (b : Byte) :
    opOf b = none ↔ b.toNat = 0x00 ∨ (0x06 ≤ b.toNat ∧ b.toNat ≤ 0x0F) ∨ (0x11 ≤ b.toNat ∧ b.toNat ≤ 0x1F) ∨
      (0x21 ≤ b.toNat ∧ b.toNat ≤ 0x2F) ∨ 0x34 ≤ b.toNat := by
  have hb := b.isLt
  simp only [opOf, opTable, Option.map_eq_none_iff, List.find?_eq_none, List.forall_mem_cons, List.not_mem_nil,
    IsEmpty.forall_iff, implies_true, and_true, beq_iff_eq, BitVec.toNat_eq, BitVec.toNat_ofNat]
  omega

/-- A defined code is a row of the operation code map. -/
theorem mem_opTable_of_opOf {b : Byte} {op : OpCode} (h : opOf b = some op) : (b, op) ∈ opTable := by
  obtain ⟨⟨c, o⟩, hfind, rfl⟩ := Option.map_eq_some_iff.mp h
  have hc : c = b := by simpa using List.find?_some hfind
  exact hc ▸ List.mem_of_find?_eq_some hfind

theorem opOf_eq_encode_iff (b : Byte) : opOf b = some .encode ↔ b = 0x10#8 := by
  refine ⟨fun h => ?_, by rintro rfl; rfl⟩
  simpa [opTable] using mem_opTable_of_opOf h

theorem opOf_eq_decode_iff (b : Byte) : opOf b = some .decode ↔ b = 0x20#8 := by
  refine ⟨fun h => ?_, by rintro rfl; rfl⟩
  simpa [opTable] using mem_opTable_of_opOf h

/-! ### The step of a request (R11, R39, R51) -/

theorem step_of_request {s : State} {q : List Byte} {rest : List HostEvent} (h : s.inputs = .request q :: rest) :
    step s = performRequest q { s with inputs := rest } := by
  simp only [step, h]

theorem performRequest_of_error {q : List Byte} {e : ParseError} (h : decode q = .error e) (s : State) :
    performRequest q s = raise s (parseStatus e) blank := by
  simp only [performRequest, h]

theorem decode_of_opOf_none {b : Byte} (h : opOf b = none) (q : List Byte) :
    decode (b :: q) = .error .unsupportedOp := by
  simp only [decode, h]

theorem decode_of_opOf_some {b : Byte} {op : OpCode} (h : opOf b = some op) (q : List Byte) :
    decode (b :: q) = decodeOp op (b :: q) := by
  simp only [decode, h]

/-- Settles O37: the parse refuses the code before it looks at the length, and `raise` keeps `ACC`. -/
theorem undefinedCodeIsUnsupportedOp : Obligations.UndefinedCodeIsUnsupportedOp := by
  intro s b q rest hcode hinputs
  have hparse := decode_of_opOf_none ((opOf_eq_none_iff b).mpr hcode) q
  have hstep : step s = raise { s with inputs := rest } .errUnsupportedOp blank :=
    (step_of_request hinputs).trans (performRequest_of_error hparse _)
  refine ⟨_, _, hstep, rfl, rfl, ?_, ?_, rfl, rfl⟩ <;> exact Bool.or_true s.misuse

/-! ### What a successful parse says of its layout (R44 to R49) -/

theorem decode_eq_ok_iff (q : List Byte) (i : Instr) :
    decode q = .ok i ↔ ∃ b l op, q = b :: l ∧ opOf b = some op ∧ decodeOp op q = .ok i := by
  constructor
  · intro h
    cases q with
    | nil => cases h
    | cons b l =>
      cases hop : opOf b with
      | none => rw [decode_of_opOf_none hop] at h; cases h
      | some op => exact ⟨b, l, op, rfl, hop, decode_of_opOf_some hop l ▸ h⟩
  · rintro ⟨b, l, op, rfl, hop, h⟩
    exact (decode_of_opOf_some hop l).trans h

theorem fixedLayout_eq_ok_iff (n : Nat) (j : Instr) (q : List Byte) (i : Instr) :
    fixedLayout n j q = .ok i ↔ q.length = n ∧ i = j := by
  unfold fixedLayout
  split_ifs with h <;> simp [h, eq_comm]

theorem bufferLayout_eq_ok_iff (mk : List Byte → Instr) (q : List Byte) (i : Instr) :
    bufferLayout mk q = .ok i ↔
      (rdBe16 q 1).toNat ≤ 256 ∧ q.length = 3 + (rdBe16 q 1).toNat ∧ i = mk (slice q 3 q.length) := by
  unfold bufferLayout
  split_ifs <;> grind

theorem encodeLayout_eq_ok_iff (q : List Byte) (i : Instr) :
    encodeLayout q = .ok i ↔ ndataOf q ≤ 13 ∧ q.length = rspOffset q ∧ i = .encode (descriptorOf q) := by
  unfold encodeLayout rspOffset
  split_ifs <;> grind

theorem decodeLayout_eq_ok_iff (q : List Byte) (i : Instr) :
    decodeLayout q = .ok i ↔
      ndataOf q ≤ 13 ∧ (rdBe16 q (rspOffset q)).toNat ≤ 256 ∧
      q.length = rspOffset q + 2 + (rdBe16 q (rspOffset q)).toNat ∧
      i = .decode (descriptorOf q) (slice q (rspOffset q + 2) q.length) := by
  unfold decodeLayout rspOffset
  split_ifs <;> grind

/-- The operation whose code begins an instruction's request; the wire frames have none (R43). -/
def requestOp : Instr → Option OpCode
  | .crcInit => some .crcInit
  | .crcUpdate _ => some .crcUpdate
  | .crcBlock _ => some .crcBlock
  | .crcVerify _ => some .crcVerify
  | .crcRead => some .crcRead
  | .encode _ => some .encode
  | .decode _ _ => some .decode
  | .lookupName _ => some .lookupName
  | .lookupAddr _ => some .lookupAddr
  | .orderIndex _ => some .orderIndex
  | .resolveWindow _ _ => some .resolveWindow
  | .frameReadRequest _ _ _ | .frameSingleWriteRequest _ | .frameMultipleWriteRequest _ => none
  | .frameReadResponse _ _ _ _ | .frameSingleWriteResponse _ _ _ _ _ => none
  | .frameMultipleWriteResponse _ _ _ _ _ => none

/-- Each layout parses to its own operation. -/
theorem requestOp_of_decodeOp {op : OpCode} {q : List Byte} {i : Instr} (h : decodeOp op q = .ok i) :
    requestOp i = some op := by
  cases op with
  | crcInit => obtain ⟨-, rfl⟩ := (fixedLayout_eq_ok_iff _ _ _ _).mp h; rfl
  | crcUpdate => obtain ⟨-, rfl⟩ := (fixedLayout_eq_ok_iff _ _ _ _).mp h; rfl
  | crcBlock => obtain ⟨-, -, rfl⟩ := (bufferLayout_eq_ok_iff _ _ _).mp h; rfl
  | crcVerify => obtain ⟨-, -, rfl⟩ := (bufferLayout_eq_ok_iff _ _ _).mp h; rfl
  | crcRead => obtain ⟨-, rfl⟩ := (fixedLayout_eq_ok_iff _ _ _ _).mp h; rfl
  | encode => obtain ⟨-, -, rfl⟩ := (encodeLayout_eq_ok_iff _ _).mp h; rfl
  | decode => obtain ⟨-, -, -, rfl⟩ := (decodeLayout_eq_ok_iff _ _).mp h; rfl
  | lookupName => obtain ⟨-, rfl⟩ := (fixedLayout_eq_ok_iff _ _ _ _).mp h; rfl
  | lookupAddr => obtain ⟨-, rfl⟩ := (fixedLayout_eq_ok_iff _ _ _ _).mp h; rfl
  | orderIndex => obtain ⟨-, rfl⟩ := (fixedLayout_eq_ok_iff _ _ _ _).mp h; rfl
  | resolveWindow => obtain ⟨-, rfl⟩ := (fixedLayout_eq_ok_iff _ _ _ _).mp h; rfl

/-- An operation's request is its code, then bytes its own layout accepts. -/
theorem decode_eq_ok_iff_of_requestOp {i : Instr} {op : OpCode} (hi : requestOp i = some op) (q : List Byte) :
    decode q = .ok i ↔ ∃ b l, q = b :: l ∧ opOf b = some op ∧ decodeOp op (b :: l) = .ok i := by
  rw [decode_eq_ok_iff]
  constructor
  · rintro ⟨b, l, op', rfl, hop, h⟩
    obtain rfl : op = op' := Option.some.inj (hi.symm.trans (requestOp_of_decodeOp h))
    exact ⟨b, l, rfl, hop, h⟩
  · rintro ⟨b, l, rfl, hop, h⟩
    exact ⟨b, l, op, rfl, hop, h⟩

/-! ### The descriptor and the buffer in a request's bytes (R45, R46, R48) -/

theorem byteOf_toNat (b : Byte) : byteOf b.toNat = b := by simp [byteOf]

theorem wordOf_toNat (v : Word) : wordOf v.toNat = v := by simp [wordOf]

/-- A 16-bit length field holds every buffer's length. -/
theorem toNat_wordOf {n : Nat} (h : n ≤ 256) : (wordOf n).toNat = n := by
  simp only [wordOf, BitVec.toNat_ofNat]
  omega

@[simp] theorem length_descriptorBytes (d : Descriptor) : (descriptorBytes d).length = 5 + 2 * d.data.length := by
  simp [descriptorBytes]; omega

theorem ndataOf_descriptorBytes {d : Descriptor} (h : d.data.length ≤ 13) (b : Byte) (r : List Byte) :
    ndataOf (b :: (descriptorBytes d ++ r)) = d.data.length := by
  change d.data.length % 256 = d.data.length
  omega

/-- The descriptor read is the descriptor written. -/
theorem descriptorOf_descriptorBytes {d : Descriptor} (h : d.data.length ≤ 13) (b : Byte) (r : List Byte) :
    descriptorOf (b :: (descriptorBytes d ++ r)) = d := by
  have hdata : readWords (b :: (descriptorBytes d ++ r)) 6 d.data.length = d.data :=
    readWords_wordBytes [b, d.addr, d.mode, d.start, d.count, byteOf d.data.length] d.data r
  simp only [descriptorOf, ndataOf_descriptorBytes h, hdata]
  rfl

theorem rspOffset_descriptorBytes {d : Descriptor} (h : d.data.length ≤ 13) (b : Byte) (r : List Byte) :
    rspOffset (b :: (descriptorBytes d ++ r)) = (b :: descriptorBytes d).length := by
  rw [rspOffset, ndataOf_descriptorBytes h, List.length_cons, length_descriptorBytes]
  omega

/-- The descriptor written is the descriptor read: the bytes after the code, up to the offset `d` of R48. -/
theorem descriptorBytes_descriptorOf {b : Byte} {l : List Byte} (h : rspOffset (b :: l) ≤ (b :: l).length) :
    b :: (descriptorBytes (descriptorOf (b :: l)) ++ (b :: l).drop (rspOffset (b :: l))) = b :: l := by
  generalize hq : b :: l = q at h ⊢
  have hoff : rspOffset q = 6 + 2 * ndataOf q := rfl
  have hdata := wordBytes_readWords q 6 (ndataOf q) (by omega)
  have hn : byteOf (ndataOf q) = byteAt q 5 := byteOf_toNat _
  have hhead : [b, byteAt q 1, byteAt q 2, byteAt q 3, byteAt q 4, byteAt q 5] ++ q.drop 6 = q := by
    have hb : b = byteAt q 0 := hq ▸ rfl
    simp (disch := omega) only [hb, List.cons_append, List.nil_append, byteAt_cons_drop, List.drop_zero]
  calc b :: (descriptorBytes (descriptorOf q) ++ q.drop (rspOffset q))
      = [b, byteAt q 1, byteAt q 2, byteAt q 3, byteAt q 4, byteAt q 5] ++
          ((q.drop 6).take (2 * ndataOf q) ++ (q.drop 6).drop (2 * ndataOf q)) := by
        simp [descriptorBytes, descriptorOf, hdata, hn, hoff]
    _ = q := by rw [List.take_append_drop, hhead]

theorem slice_append_right (a b : List Byte) : slice (a ++ b) a.length (a ++ b).length = b := by
  simp [slice]

/-- The buffer written is the buffer read: a length field that counts the bytes after it. -/
theorem bufferBytes_slice {q : List Byte} {i : Nat} (h : q.length = i + 2 + (rdBe16 q i).toNat) :
    bufferBytes (slice q (i + 2) q.length) = q.drop i := by
  have hslice : slice q (i + 2) q.length = q.drop (i + 2) := List.take_of_length_le (by simp)
  have hlen : (q.drop (i + 2)).length = (rdBe16 q i).toNat := by rw [List.length_drop]; omega
  rw [hslice, bufferBytes, hlen, wordOf_toNat, be16_rdBe16, List.cons_append, List.cons_append, List.nil_append,
    byteAt_cons_drop (by omega), byteAt_cons_drop (by omega)]

/-! ### The requests of ENCODE and DECODE (R47, R48) -/

/-- ENCODE's layout accepts exactly the descriptor's bytes. -/
theorem encodeLayout_cons_iff (b : Byte) (l : List Byte) (d : Descriptor) :
    encodeLayout (b :: l) = .ok (.encode d) ↔ d.data.length ≤ 13 ∧ l = descriptorBytes d := by
  rw [encodeLayout_eq_ok_iff]
  constructor
  · rintro ⟨hn, hlen, hd⟩
    obtain rfl := Instr.encode.inj hd
    have hbytes := descriptorBytes_descriptorOf hlen.ge
    rw [← hlen, List.drop_length, List.append_nil] at hbytes
    exact ⟨by simpa [descriptorOf] using hn, (List.cons.inj hbytes).2.symm⟩
  · rintro ⟨hn, rfl⟩
    have hnd := ndataOf_descriptorBytes hn b []
    have hoff := rspOffset_descriptorBytes hn b []
    have hd := descriptorOf_descriptorBytes hn b []
    rw [List.append_nil] at hnd hoff hd
    exact ⟨hnd.trans_le hn, hoff.symm, congrArg _ hd.symm⟩

/-- DECODE's layout accepts exactly the descriptor's bytes and the response's, after their length. -/
theorem decodeLayout_cons_iff (b : Byte) (l : List Byte) (d : Descriptor) (rsp : List Byte) :
    decodeLayout (b :: l) = .ok (.decode d rsp) ↔
      d.data.length ≤ 13 ∧ rsp.length ≤ 256 ∧ l = descriptorBytes d ++ bufferBytes rsp := by
  rw [decodeLayout_eq_ok_iff]
  constructor
  · rintro ⟨hn, hmax, hlen, hi⟩
    obtain ⟨rfl, rfl⟩ := Instr.decode.inj hi
    have hbytes := descriptorBytes_descriptorOf (b := b) (l := l) (by omega)
    rw [← bufferBytes_slice hlen] at hbytes
    refine ⟨by simpa [descriptorOf] using hn, ?_, (List.cons.inj hbytes).2.symm⟩
    simp only [slice, List.length_take, List.length_drop]
    omega
  · rintro ⟨hn, hmax, rfl⟩
    have hoff := rspOffset_descriptorBytes hn b (bufferBytes rsp)
    have hfield : rdBe16 (b :: (descriptorBytes d ++ bufferBytes rsp)) (b :: descriptorBytes d).length =
        wordOf rsp.length :=
      (rdBe16_append_right (a := b :: descriptorBytes d) (i := 0)).trans (rdBe16_be16 _ rsp)
    have hrsp : slice (b :: (descriptorBytes d ++ bufferBytes rsp)) ((b :: descriptorBytes d).length + 2)
        (b :: (descriptorBytes d ++ bufferBytes rsp)).length = rsp := by
      simpa [bufferBytes] using slice_append_right (b :: descriptorBytes d ++ be16 (wordOf rsp.length)) rsp
    rw [ndataOf_descriptorBytes hn, hoff, hfield, toNat_wordOf hmax, descriptorOf_descriptorBytes hn, hrsp]
    refine ⟨hn, hmax, ?_, rfl⟩
    simp [bufferBytes]
    omega

theorem decode_eq_encode_iff (q : List Byte) (d : Descriptor) :
    decode q = .ok (.encode d) ↔ d.data.length ≤ 13 ∧ q = encode (.encode d) := by
  simp only [decode_eq_ok_iff_of_requestOp (i := .encode d) rfl, opOf_eq_encode_iff, decodeOp, encodeLayout_cons_iff]
  constructor
  · rintro ⟨_, _, rfl, rfl, hn, rfl⟩
    exact ⟨hn, rfl⟩
  · rintro ⟨hn, rfl⟩
    exact ⟨_, _, rfl, rfl, hn, rfl⟩

theorem decode_eq_decode_iff (q : List Byte) (d : Descriptor) (rsp : List Byte) :
    decode q = .ok (.decode d rsp) ↔
      d.data.length ≤ 13 ∧ rsp.length ≤ 256 ∧ q = encode (.decode d rsp) := by
  simp only [decode_eq_ok_iff_of_requestOp (i := .decode d rsp) rfl, opOf_eq_decode_iff, decodeOp,
    decodeLayout_cons_iff]
  constructor
  · rintro ⟨_, _, rfl, rfl, hn, hmax, rfl⟩
    exact ⟨hn, hmax, rfl⟩
  · rintro ⟨hn, hmax, rfl⟩
    exact ⟨_, _, rfl, rfl, hn, hmax, rfl⟩

/-- Settles O59: a request parses to a command exactly when it is the command's encoding, here written out. -/
theorem commandRequestLayouts : Obligations.CommandRequestLayouts := by
  refine ⟨fun q a m r c vs => ?_, fun q a m r c vs rsp => ?_⟩
  · rw [decode_eq_encode_iff, ← wordBytes_eq_flatMap]
    rfl
  · rw [decode_eq_decode_iff, ← wordBytes_eq_flatMap, List.append_assoc]
    rfl

end Sys2Proof.Machine

/-! SUPPORT. The CRC16 Engine: R64 and R65 in the functions' own terms, what ending with OK leaves, and the requests of
fixed length. -/

namespace Sys2Proof.Machine

/-! ### The CRC functions (R64, R65) -/

/-- One iteration of R64 with its polynomial constant written out. -/
theorem crcShift_eq (a : Word) : crcShift a = if a.getLsbD 0 then (a >>> 1) ^^^ 0xA001#16 else a >>> 1 := rfl

theorem crcStep_eq_iterate (acc : Word) (b : Byte) : crcStep acc b = crcShift^[8] (acc ^^^ zext16 b) :=
  crcShifts_eq_iterate 8 _

theorem crcFrom_eq_foldl (acc : Word) (s : List Byte) : crcFrom acc s = s.foldl crcStep acc := by
  induction s generalizing acc with
  | nil => rfl
  | cons b s ih => exact ih (crcStep acc b)

/-- Settles O60: the loop of R64 is its iteration, and the loop of R65 a left fold. -/
theorem crcStepIsEightShifts : Obligations.CrcStepIsEightShifts := by
  refine ⟨fun acc b => ?_, crcFrom_eq_foldl 0xFFFF#16, by decide⟩
  rw [crcStep_eq_iterate, funext crcShift_eq, zext16]

/-! ### Ending a request with OK (R9, R95) -/

theorem finish_eq_afterOk (s : State) (r : Response) : finish s r = .next (afterOk s r) :=
  congrArg Host.Outcome.next (respond_ok s r)

/-- A writer of `ACC` reports the value it writes, and keeps the flag and the inputs. -/
theorem loadAcc_eq_afterOk (s : State) (v : Word) : loadAcc s v = .next (afterOk (setAcc s v) (crcResult v)) :=
  finish_eq_afterOk (setAcc s v) (crcResult v)

/-! ### Requests of fixed length (R44, R51) -/

theorem fixedLayout_of_length_ne {n : Nat} {q : List Byte} (h : q.length ≠ n) (i : Instr) :
    fixedLayout n i q = .error .wrongLength := if_neg h

/-- A request that the parse refuses ends in the parse's status, with the default response fields (R42, R51). -/
theorem step_of_parse_error {s : State} {q : List Byte} {rest : List HostEvent} {e : ParseError}
    (hinputs : s.inputs = .request q :: rest) (hparse : decode q = .error e) :
    step s = .next (respond { s with inputs := rest } (parseStatus e) blank) :=
  (step_of_request hinputs).trans (performRequest_of_error hparse _)

/-! ### The operations on the accumulator (R67, R68, R71) -/

/-- Settles O1: a request of two bytes is too long for CRC_INIT's layout, and the effect is `loadAcc`'s. -/
theorem crcInitLoadsInitialValue : Obligations.CrcInitLoadsInitialValue := by
  refine ⟨?_, fun x s rest hinputs => ?_, fun s => ?_⟩
  · exact (decode_eq_ok_iff_of_requestOp rfl _).mpr ⟨_, _, rfl, rfl, rfl⟩
  · have hparse : decode [0x01#8, x] = .error .wrongLength :=
      (decode_of_opOf_some (op := .crcInit) rfl [x]).trans (fixedLayout_of_length_ne (by simp) _)
    exact ⟨_, _, step_of_parse_error hinputs hparse, rfl, rfl, rfl⟩
  · exact loadAcc_eq_afterOk s Config.crcInitial

/-- Settles O2: the layout holds one operand byte, and the effect is `loadAcc`'s. -/
theorem crcUpdateFeedsOneByte : Obligations.CrcUpdateFeedsOneByte := by
  intro b s
  constructor
  · exact (decode_eq_ok_iff_of_requestOp rfl _).mpr ⟨_, _, rfl, rfl, rfl⟩
  · exact loadAcc_eq_afterOk s (crcStep s.acc b)

/-- Settles O5: CRC_READ finishes with the accumulator's value and writes no state. -/
theorem crcReadReturnsAccumulator : Obligations.CrcReadReturnsAccumulator := by
  refine ⟨?_, fun x => ?_, fun s => ?_⟩
  · exact (decode_eq_ok_iff_of_requestOp rfl _).mpr ⟨_, _, rfl, rfl, rfl⟩
  · exact (decode_of_opOf_some (op := .crcRead) rfl [x]).trans (fixedLayout_of_length_ne (by simp) _)
  · exact finish_eq_afterOk s (crcResult s.acc)

end Sys2Proof.Machine

/-! SUPPORT. What a successful ENCODE returns: the built frame, template and mask of the command's mode, and their shape. -/

namespace Sys2Proof.Machine

/-! ### A successful ENCODE (R74) -/

/-- A response of ENCODE with status OK is the build of the command's mode, for a command that its check accepts. -/
theorem encode_ok_inv {d : Descriptor} {s t : State} {r : Response} (hexec : exec (.encode d) s = .next t)
    (hresp : t.response = some r) (hok : r.status = .ok) :
    ∃ m, d.mode = modeCode m ∧ cmdCheck d = .ok ∧ t = afterOk s (encodeResult m d) ∧
      r = { encodeResult m d with misuse := s.misuse } := by
  have hcmd : encodeCommand d s = .next t := hexec
  obtain ⟨hcheck, e⟩ | ⟨hcheck, m, hmode, e⟩ := encodeCommand_cases d s
  · obtain rfl := raise_next_iff.mp (e.symm.trans hcmd)
    obtain rfl := Option.some.inj hresp
    exact absurd hok hcheck
  · obtain rfl := finish_next_iff.mp (e.symm.trans hcmd)
    rw [respond_ok] at hresp ⊢
    exact ⟨m, (modeOf_eq_some_iff _ m).mp hmode, hcheck, rfl, (Option.some.inj hresp).symm⟩

theorem modeCode_eq_read_iff (m : Mode) : modeCode m = 0x03#8 ↔ m = .read := by
  cases m <;> decide

theorem modeCode_eq_write_iff (m : Mode) : modeCode m = 0x06#8 ∨ modeCode m = 0x10#8 ↔ m ≠ .read := by
  cases m <;> decide

/-! ### The template's length (R75 to R77, R80) -/

theorem length_readTemplate (d : Descriptor) : (build .read d).template.length = 5 + 2 * d.count.toNat := by
  simp [build, body, readBody]
  omega

theorem length_writeTemplate {m : Mode} (hm : m ≠ .read) (d : Descriptor) : (build m d).template.length = 8 := by
  cases m with
  | read => exact absurd rfl hm
  | singleWrite => rfl
  | multipleWrite => rfl

/-- A span inside the catalog keeps the template's length within the byte `EXP_LEN`. -/
theorem length_template_lt {d : Descriptor} (h : cmdCheck d = .ok) (m : Mode) : (build m d).template.length < 256 := by
  obtain ⟨-, -, -, hspan, -, -⟩ := (cmdCheck_ok_iff d).mp h
  by_cases hm : m = .read
  · rw [hm, length_readTemplate]
    omega
  · rw [length_writeTemplate hm]
    decide

theorem toNat_byteOf {n : Nat} (h : n < 256) : (byteOf n).toNat = n := by
  simpa [byteOf] using h

/-- Settles O19: the template's length is its mode's, and `EXP_LEN` holds it without wrap. -/
theorem encodeExpectedLength : Obligations.EncodeExpectedLength := by
  intro d s t r hexec hresp hok
  obtain ⟨m, hmode, hcheck, -, rfl⟩ := encode_ok_inv hexec hresp hok
  rw [hmode, modeCode_eq_write_iff, modeCode_eq_read_iff]
  refine ⟨toNat_byteOf (length_template_lt hcheck m), fun hm => length_writeTemplate hm d, ?_⟩
  rintro rfl
  exact length_readTemplate d

/-! ### The template's mask (R79) -/

theorem readTmask_eq (d : Descriptor) :
    (build .read d).tmask = List.replicate 3 true ++ List.replicate (2 * d.count.toNat + 2) false := by
  rw [List.replicate_add]
  rfl

theorem writeTmask_eq {m : Mode} (hm : m ≠ .read) (d : Descriptor) : (build m d).tmask = List.replicate 8 true := by
  cases m with
  | read => exact absurd rfl hm
  | singleWrite => rfl
  | multipleWrite => rfl

/-- The fixed fields are the first three bytes for READ, and every byte for the write modes. -/
theorem tmask_getElem?_iff (m : Mode) (d : Descriptor) {i : Nat} (hi : i < (build m d).template.length) :
    (build m d).tmask[i]? = some true ↔ (m = .read → i < 3) := by
  by_cases hm : m = .read
  · subst hm
    rw [readTmask_eq, List.getElem?_append, List.length_replicate]
    by_cases h3 : i < 3
    · rw [if_pos h3, List.getElem?_replicate_of_lt h3]
      exact iff_of_true rfl fun _ => h3
    · rw [if_neg h3, List.getElem?_replicate]
      simp [h3]
  · rw [length_writeTemplate hm] at hi
    rw [writeTmask_eq hm, List.getElem?_replicate_of_lt hi]
    exact iff_of_true rfl fun h => absurd h hm

/-- Settles O20: the mask has one bit per byte, and its bits are those of `tmask_getElem?_iff`. -/
theorem encodeTemplateMask : Obligations.EncodeTemplateMask := by
  intro d s t r hexec hresp hok
  obtain ⟨m, hmode, -, -, rfl⟩ := encode_ok_inv hexec hresp hok
  rw [hmode, modeCode_eq_read_iff]
  exact ⟨length_build_tmask m d, fun i hi => tmask_getElem?_iff m d hi⟩

/-! ### The two CRC fields (R78) -/

/-- After its three fixed bytes, the READ template's body is its placeholders. -/
theorem readTemplateBody_drop (d : Descriptor) :
    (body .read d).template.drop 3 = List.replicate (2 * d.count.toNat) 0x00#8 := rfl

/-- Settles O21: frame and template are the mode's two bodies, each `signed`. -/
theorem encodeSignsFrameAndTemplate : Obligations.EncodeSignsFrameAndTemplate := by
  intro d s t r hexec hresp hok
  obtain ⟨m, hmode, -, -, rfl⟩ := encode_ok_inv hexec hresp hok
  refine ⟨(body m d).frame, (body m d).template, rfl, rfl, fun hread => ?_⟩
  obtain rfl := (modeCode_eq_read_iff m).mp (hmode.symm.trans hread)
  exact readTemplateBody_drop d

end Sys2Proof.Machine

/-! SUPPORT. What DECODE returns, by its status, and its template verdict. -/

namespace Sys2Proof.Machine

/-! ### The two ends of DECODE (R82, R83) -/

/-- A response of DECODE is the failure marker under a failing status, or what the command's mode decodes, for a response
with a good CRC and a command that ENCODE's check accepts. -/
theorem decode_response_inv {d : Descriptor} {b : List Byte} {s t : State} {r : Response}
    (hexec : exec (.decode d b) s = .next t) (hresp : t.response = some r) :
    (r.status ≠ .ok ∧ r = { decodeFailure d with status := r.status, misuse := t.misuse }) ∨
    (crcOk b = true ∧ cmdCheck d = .ok ∧ ∃ m x, modeOf d.mode = some m ∧ perMode m d b = some x ∧
      r = { decodeResult m d b x with misuse := s.misuse }) := by
  have hdec : decodeResponse d b s = .next t := hexec
  have hfail : ∀ {st : Status}, st ≠ .ok → decodeResponse d b s = raise s st (decodeFailure d) →
      r.status ≠ .ok ∧ r = { decodeFailure d with status := r.status, misuse := t.misuse } := by
    intro st hst e
    obtain rfl := raise_next_iff.mp (e.symm.trans hdec)
    obtain rfl := Option.some.inj hresp
    exact ⟨hst, rfl⟩
  obtain ⟨-, e⟩ | ⟨-, hcheck, e⟩ | ⟨hcrc, hcheck, m, hmode, ⟨-, e⟩ | ⟨x, hx, e⟩⟩ := decodeResponse_cases d b s
  · exact .inl (hfail (by decide) e)
  · exact .inl (hfail hcheck e)
  · exact .inl (hfail (by decide) e)
  · obtain rfl := finish_next_iff.mp (e.symm.trans hdec)
    rw [respond_ok] at hresp
    exact .inr ⟨hcrc, hcheck, m, x, hmode, hx, (Option.some.inj hresp).symm⟩

/-! ### The template verdict (R87) -/

/-- ENCODE completes for every command that its check accepts. -/
theorem exec_encode_of_accepted {d : Descriptor} {m : Mode} (hcheck : cmdCheck d = .ok) (hmode : modeOf d.mode = some m)
    (s : State) : exec (.encode d) s = .next (afterOk s (encodeResult m d)) := by
  simp [exec, execEncode, encodeCommand, hcheck, hmode, finish_eq_afterOk]

/-- `tmatch` compares with the template and the mask that ENCODE returns for the command. -/
theorem tmatch_iff (m : Mode) (d : Descriptor) (b : List Byte) :
    tmatch m d b = true ↔ b.length = (encodeResult m d).template.length ∧
      ∀ i, i < b.length → (encodeResult m d).tmask[i]? = some false ∨ b[i]? = (encodeResult m d).template[i]? :=
  matchesTemplate_iff _ _ b (length_build_tmask m d)

/-- Settles O28: a successful DECODE has had its command accepted by ENCODE's own check, so ENCODE returns the template
and the mask that `tmatch` reads; a failed one leaves the default. -/
theorem decodeTemplateMatch : Obligations.DecodeTemplateMatch := by
  intro d b s t u r e hdec hresp henc hrespEnc
  obtain ⟨hfail, hr⟩ | ⟨-, hcheck, m, x, hmode, -, rfl⟩ := decode_response_inv hdec hresp
  · refine ⟨fun hok => absurd hok hfail, fun _ => ?_⟩
    rw [hr]
    rfl
  · obtain rfl := Host.Outcome.next.inj ((exec_encode_of_accepted hcheck hmode s).symm.trans henc)
    obtain rfl := Option.some.inj hrespEnc
    exact ⟨fun _ => ⟨rfl, tmatch_iff m d b⟩, fun hfail => absurd rfl hfail⟩

end Sys2Proof.Machine

/-! SUPPORT. How a request ends: the status classes, and what every step of a request leaves in the flag and in `ACC`. -/

namespace Sys2Proof.Machine

/-! ### Status codes and classes (R93, R94) -/

theorem toNat_statusCode_lt (st : Status) : (statusCode st).toNat < 8 := by
  cases st <;> decide

theorem isMisuse_iff (st : Status) :
    isMisuse st = true ↔ st = .errUnknownRegister ∨ st = .errUnsupportedMode ∨ st = .errSpan ∨ st = .errData ∨
      st = .errUnsupportedOp := by
  cases st <;> simp [isMisuse]

theorem isDeviceFault_iff (st : Status) : isDeviceFault st = true ↔ st = .integrityFail ∨ st = .errFormat := by
  cases st <;> simp [isDeviceFault]

/-- Settles O51: the codes are `statusCode`'s arms, and each class is read off status by status. -/
theorem statusCodesAndClasses : Obligations.StatusCodesAndClasses :=
  ⟨rfl, toNat_statusCode_lt, isMisuse_iff, isDeviceFault_iff⟩

/-! ### The end of a request (R51, R95, R96) -/

/-- Performed or refused by the parse, a request ends in `respond`, and only one that ends in OK rewrites `ACC`. -/
theorem performRequest_eq_respond (q : List Byte) (s : State) :
    ∃ v st r, performRequest q s = .next (respond (setAcc s v) st r) ∧ (v = s.acc ∨ st = .ok) := by
  cases hparse : decode q with
  | error e => exact ⟨s.acc, _, _, performRequest_of_error hparse s, .inl rfl⟩
  | ok i =>
    obtain ⟨v, st, r, hexec, hacc, -⟩ := exec_endsAs i s
    have hperform : performRequest q s = exec i s := by simp only [performRequest, hparse]
    exact ⟨v, st, r, hperform.trans hexec, hacc.imp_right And.right⟩

/-- What the step of a request leaves in the response's `MISUSE`, in the flag and in `ACC`. -/
theorem step_request_inv {s t : State} {q : List Byte} {rest : List HostEvent} (hinputs : s.inputs = .request q :: rest)
    (hstep : step s = .next t) :
    ∃ r, t.response = some r ∧ r.misuse = t.misuse ∧ t.misuse = (s.misuse || isMisuse r.status) ∧
      (t.acc = s.acc ∨ r.status = .ok) := by
  obtain ⟨v, st, r, hperform, hacc⟩ := performRequest_eq_respond q { s with inputs := rest }
  have hend := (step_of_request hinputs).trans hperform
  obtain rfl := Host.Outcome.next.inj (hend.symm.trans hstep)
  exact ⟨_, rfl, rfl, rfl, hacc⟩

/-- A step that clears the flag takes a reset event: an idle step changes nothing, and a request keeps a set flag. -/
theorem reset_of_misuse_cleared {s t : State} (hstep : step s = .next t) (hs : s.misuse = true)
    (ht : t.misuse = false) : ∃ rest, s.inputs = .reset :: rest := by
  match hinputs : s.inputs with
  | .reset :: rest => exact ⟨rest, rfl⟩
  | [] =>
    have hidle : step s = .next s := by simp only [step, hinputs]
    obtain rfl := Host.Outcome.next.inj (hidle.symm.trans hstep)
    exact absurd hs (ht ▸ Bool.false_ne_true)
  | .request q :: rest =>
    obtain ⟨r, -, -, hflag, -⟩ := step_request_inv hinputs hstep
    rw [hs, Bool.true_or, ht] at hflag
    exact absurd hflag Bool.false_ne_true

/-- Settles O43: the flag a request leaves, with the misuse class written out; and what clears it. -/
theorem misuseFlagRule : Obligations.MisuseFlagRule := by
  refine ⟨fun s t q rest hinputs hstep => ?_, fun s t => reset_of_misuse_cleared⟩
  obtain ⟨r, hresp, hfield, hflag, -⟩ := step_request_inv hinputs hstep
  refine ⟨r, hresp, hfield, ?_⟩
  rw [hflag, Bool.or_eq_true, isMisuse_iff]

/-- Settles O44: a request that rewrites `ACC` ends in OK. -/
theorem failureKeepsAccumulator : Obligations.FailureKeepsAccumulator := by
  intro s t q rest r hinputs hstep hresp hfail
  obtain ⟨r', hresp', -, hflag, hacc⟩ := step_request_inv hinputs hstep
  obtain rfl : r' = r := Option.some.inj (hresp'.symm.trans hresp)
  exact ⟨hacc.resolve_right hfail, hflag⟩

end Sys2Proof.Machine

/-! SUPPORT. Reset: the step that takes the reset event (R104). -/

namespace Sys2Proof.Machine

theorem step_of_reset {s : State} {rest : List HostEvent} (hinputs : s.inputs = .reset :: rest) :
    step s = .next (resetBlock { s with inputs := rest }) := by
  simp only [step, hinputs]

/-- Settles O39: the step is `resetBlock` past its input, whose fields are read off by their lemmas. -/
theorem resetEventRestoresState : Obligations.ResetEventRestoresState := fun _ _ hinputs =>
  ⟨_, step_of_reset hinputs, resetBlock_acc _, resetBlock_misuse _, resetBlock_inputs _⟩

end Sys2Proof.Machine

/-! SUPPORT. The request parse reads exactly what the encoder writes, operation by operation; what it answers every other
request with a defined code. -/

namespace Sys2Proof.Machine

/-! ### One code for each operation (R43) -/

/-- The code of an operation. -/
def codeOf : OpCode → Byte
  | .crcInit => 0x01#8
  | .crcUpdate => 0x02#8
  | .crcBlock => 0x03#8
  | .crcVerify => 0x04#8
  | .crcRead => 0x05#8
  | .encode => 0x10#8
  | .decode => 0x20#8
  | .lookupName => 0x30#8
  | .lookupAddr => 0x31#8
  | .orderIndex => 0x32#8
  | .resolveWindow => 0x33#8

theorem opOf_codeOf (op : OpCode) : opOf (codeOf op) = some op := by
  cases op <;> rfl

theorem eq_codeOf_of_mem_opTable {b : Byte} {op : OpCode} (h : (b, op) ∈ opTable) : b = codeOf op := by
  have hrows : ∀ row ∈ opTable, row.1 = codeOf row.2 := by decide
  exact hrows _ h

theorem opOf_eq_some_iff (b : Byte) (op : OpCode) : opOf b = some op ↔ b = codeOf op := by
  refine ⟨fun h => eq_codeOf_of_mem_opTable (mem_opTable_of_opOf h), ?_⟩
  rintro rfl
  exact opOf_codeOf op

/-- An operation's request is its code, then bytes its own layout accepts. -/
theorem decode_eq_ok_iff_layout {i : Instr} {op : OpCode} (hi : requestOp i = some op) (q : List Byte) :
    decode q = .ok i ↔ ∃ l, q = codeOf op :: l ∧ decodeOp op (codeOf op :: l) = .ok i := by
  rw [decode_eq_ok_iff_of_requestOp hi]
  simp [opOf_eq_some_iff]

/-! ### Which bytes each layout accepts after the code (R44, R45, R49) -/

theorem fixedLayout_one_iff (b : Byte) (l : List Byte) (i : Instr) :
    fixedLayout 1 i (b :: l) = .ok i ↔ l = [] := by
  simp [fixedLayout_eq_ok_iff]

/-- A layout of one operand byte holds that byte and no other. -/
theorem fixedLayout_byte_iff {mk : Byte → Instr} (hmk : mk.Injective) (b : Byte) (l : List Byte) (x : Byte) :
    fixedLayout 2 (mk (byteAt (b :: l) 1)) (b :: l) = .ok (mk x) ↔ l = [x] := by
  simp only [fixedLayout_eq_ok_iff, List.length_cons, Nat.reduceEqDiff, hmk.eq_iff]
  constructor
  · rintro ⟨hlen, rfl⟩
    obtain ⟨y, rfl⟩ := List.length_eq_one_iff.mp hlen
    rfl
  · rintro rfl
    exact ⟨rfl, rfl⟩

/-- The layout of LOOKUP_ADDR holds the address, most-significant byte first. -/
theorem fixedLayout_lookupAddr_iff (b : Byte) (l : List Byte) (a : Word) :
    fixedLayout 3 (.lookupAddr (rdBe16 (b :: l) 1)) (b :: l) = .ok (.lookupAddr a) ↔ l = be16 a := by
  simp only [fixedLayout_eq_ok_iff, List.length_cons, Nat.reduceEqDiff, Instr.lookupAddr.injEq]
  constructor
  · rintro ⟨hlen, rfl⟩
    obtain ⟨x, y, rfl⟩ := List.length_eq_two.mp hlen
    exact (be16_rdBe16 [b, x, y] 1).symm
  · rintro rfl
    exact ⟨rfl, (rdBe16_be16 a []).symm⟩

theorem fixedLayout_resolveWindow_iff (b : Byte) (l : List Byte) (r c : Byte) :
    fixedLayout 3 (.resolveWindow (byteAt (b :: l) 1) (byteAt (b :: l) 2)) (b :: l) = .ok (.resolveWindow r c) ↔
      l = [r, c] := by
  simp only [fixedLayout_eq_ok_iff, List.length_cons, Nat.reduceEqDiff, Instr.resolveWindow.injEq]
  constructor
  · rintro ⟨hlen, rfl, rfl⟩
    obtain ⟨x, y, rfl⟩ := List.length_eq_two.mp hlen
    rfl
  · rintro rfl
    exact ⟨rfl, rfl, rfl⟩

/-- The layout of CRC_BLOCK and CRC_VERIFY holds the buffer's length and the buffer, within `MAX_BUF`. -/
theorem bufferLayout_cons_iff {mk : List Byte → Instr} (hmk : mk.Injective) (b : Byte) (l buf : List Byte) :
    bufferLayout mk (b :: l) = .ok (mk buf) ↔ buf.length ≤ 256 ∧ l = bufferBytes buf := by
  rw [bufferLayout_eq_ok_iff, hmk.eq_iff]
  constructor
  · rintro ⟨hmax, hlen, rfl⟩
    refine ⟨?_, (bufferBytes_slice (i := 1) hlen).symm⟩
    simp only [slice, List.length_take, List.length_drop]
    omega
  · rintro ⟨hmax, rfl⟩
    have hfield : rdBe16 (b :: bufferBytes buf) 1 = wordOf buf.length := rdBe16_be16 _ buf
    have hbuf : slice (b :: bufferBytes buf) 3 (b :: bufferBytes buf).length = buf :=
      slice_append_right (b :: be16 (wordOf buf.length)) buf
    rw [hfield, toNat_wordOf hmax, hbuf]
    refine ⟨hmax, ?_, rfl⟩
    simp [bufferBytes]
    omega

/-! ### The parse and the encoder (R42 to R51) -/

theorem decode_iff_of_layout {i : Instr} {op : OpCode} {tail : List Byte} (hi : requestOp i = some op)
    (hbytes : encode i = codeOf op :: tail)
    (hlayout : ∀ l, decodeOp op (codeOf op :: l) = .ok i ↔ i.wf = true ∧ l = tail) (q : List Byte) :
    decode q = .ok i ↔ i.wf = true ∧ q = encode i := by
  rw [decode_eq_ok_iff_layout hi, hbytes]
  constructor
  · rintro ⟨l, rfl, h⟩
    obtain ⟨hwf, rfl⟩ := (hlayout l).mp h
    exact ⟨hwf, rfl⟩
  · rintro ⟨hwf, rfl⟩
    exact ⟨tail, rfl, (hlayout tail).mpr ⟨hwf, rfl⟩⟩

/-- As `decode_iff_of_layout`, for an operation whose every term is well-formed. -/
theorem decode_iff_of_fixedLayout {i : Instr} {op : OpCode} {tail : List Byte} (hi : requestOp i = some op)
    (hwf : i.wf = true) (hbytes : encode i = codeOf op :: tail)
    (hlayout : ∀ l, decodeOp op (codeOf op :: l) = .ok i ↔ l = tail) (q : List Byte) :
    decode q = .ok i ↔ i.wf = true ∧ q = encode i :=
  decode_iff_of_layout hi hbytes (fun l => (hlayout l).trans (and_iff_right hwf).symm) q

/-- A request parses to a request operation exactly when it is that operation's bytes, within the limits. -/
theorem decode_eq_ok_iff_encode {i : Instr} {op : OpCode} (hi : requestOp i = some op) (q : List Byte) :
    decode q = .ok i ↔ i.wf = true ∧ q = encode i := by
  cases i with
  | crcInit =>
    exact decode_iff_of_fixedLayout (op := .crcInit) rfl rfl rfl (fun l => fixedLayout_one_iff _ l _) q
  | crcUpdate b =>
    exact decode_iff_of_fixedLayout (op := .crcUpdate) rfl rfl rfl
      (fun l => fixedLayout_byte_iff (fun _ _ => Instr.crcUpdate.inj) _ l b) q
  | crcBlock buf =>
    exact decode_iff_of_layout (op := .crcBlock) rfl rfl
      (fun l => (bufferLayout_cons_iff (fun _ _ => Instr.crcBlock.inj) _ l buf).trans (by simp [Instr.wf, bufferOk])) q
  | crcVerify buf =>
    exact decode_iff_of_layout (op := .crcVerify) rfl rfl
      (fun l => (bufferLayout_cons_iff (fun _ _ => Instr.crcVerify.inj) _ l buf).trans (by simp [Instr.wf, bufferOk])) q
  | crcRead =>
    exact decode_iff_of_fixedLayout (op := .crcRead) rfl rfl rfl (fun l => fixedLayout_one_iff _ l _) q
  | encode d => rw [decode_eq_encode_iff]; simp [Instr.wf, dataOk]
  | decode d rsp => rw [decode_eq_decode_iff]; simp [Instr.wf, dataOk, bufferOk, and_assoc]
  | lookupName r =>
    exact decode_iff_of_fixedLayout (op := .lookupName) rfl rfl rfl
      (fun l => fixedLayout_byte_iff (fun _ _ => Instr.lookupName.inj) _ l r) q
  | lookupAddr a =>
    exact decode_iff_of_fixedLayout (op := .lookupAddr) rfl rfl rfl (fun l => fixedLayout_lookupAddr_iff _ l a) q
  | orderIndex r =>
    exact decode_iff_of_fixedLayout (op := .orderIndex) rfl rfl rfl
      (fun l => fixedLayout_byte_iff (fun _ _ => Instr.orderIndex.inj) _ l r) q
  | resolveWindow r c =>
    exact decode_iff_of_fixedLayout (op := .resolveWindow) rfl rfl rfl
      (fun l => fixedLayout_resolveWindow_iff _ l r c) q
  | _ => cases hi

theorem isRequest_eq_isSome_requestOp (i : Instr) : isRequest i = (requestOp i).isSome := by
  cases i <;> rfl

theorem isRequest_iff (i : Instr) : isRequest i = true ↔ ∃ op, requestOp i = some op := by
  rw [isRequest_eq_isSome_requestOp, Option.isSome_iff_exists]

/-- What the parse gives is a request operation. -/
theorem requestOp_of_decode {q : List Byte} {i : Instr} (h : decode q = .ok i) : ∃ op, requestOp i = some op := by
  obtain ⟨_, _, op, -, -, hop⟩ := (decode_eq_ok_iff q i).mp h
  exact ⟨op, requestOp_of_decodeOp hop⟩

/-- Settles O52: the operation's bytes are the ones its layout accepts. -/
theorem decodeEncodeRequest : Obligations.DecodeEncodeRequest := by
  intro i hwf hreq
  obtain ⟨op, hop⟩ := (isRequest_iff i).mp hreq
  exact (decode_eq_ok_iff_encode hop _).mpr ⟨hwf, rfl⟩

/-- Settles O53: a layout accepts no bytes but its operation's. -/
theorem encodeDecodeRequest : Obligations.EncodeDecodeRequest := by
  intro q i h
  obtain ⟨op, hop⟩ := requestOp_of_decode h
  obtain ⟨hwf, hq⟩ := (decode_eq_ok_iff_encode hop q).mp h
  exact ⟨hq.symm, hwf, (isRequest_iff i).mpr ⟨op, hop⟩⟩

/-! ### Requests that do not parse (R42, R51) -/

/-- A layout accepts a request exactly when the length is the implied one and the length fields are within the limits. -/
theorem decodeOp_isOk_iff (op : OpCode) (q : List Byte) :
    (∃ i, decodeOp op q = .ok i) ↔ q.length = impliedLength op q ∧ limitsOk op q := by
  cases op with
  | crcBlock | crcVerify => simp [decodeOp, bufferLayout_eq_ok_iff, impliedLength, limitsOk, and_comm]
  | encode => simp [decodeOp, encodeLayout_eq_ok_iff, impliedLength, limitsOk, rspOffset, and_comm]
  | decode =>
    simp only [decodeOp, decodeLayout_eq_ok_iff, impliedLength, limitsOk]
    tauto
  | _ => simp [decodeOp, fixedLayout_eq_ok_iff, impliedLength, limitsOk]

theorem parseStatus_of_fixedLayout {n : Nat} {i : Instr} {q : List Byte} {e : ParseError}
    (h : fixedLayout n i q = .error e) : parseStatus e = .errData := by
  unfold fixedLayout at h
  split_ifs at h
  cases h
  rfl

theorem parseStatus_of_bufferLayout {mk : List Byte → Instr} {q : List Byte} {e : ParseError}
    (h : bufferLayout mk q = .error e) : parseStatus e = .errData := by
  unfold bufferLayout at h
  split_ifs at h <;> cases h <;> rfl

theorem parseStatus_of_encodeLayout {q : List Byte} {e : ParseError} (h : encodeLayout q = .error e) :
    parseStatus e = .errData := by
  unfold encodeLayout at h
  split_ifs at h <;> cases h <;> rfl

theorem parseStatus_of_decodeLayout {q : List Byte} {e : ParseError} (h : decodeLayout q = .error e) :
    parseStatus e = .errData := by
  unfold decodeLayout at h
  split_ifs at h <;> cases h <;> rfl

/-- A layout refuses a request for its length or a limit, never as an unsupported operation. -/
theorem parseStatus_of_decodeOp {op : OpCode} {q : List Byte} {e : ParseError} (h : decodeOp op q = .error e) :
    parseStatus e = .errData := by
  cases op with
  | crcBlock | crcVerify => exact parseStatus_of_bufferLayout h
  | encode => exact parseStatus_of_encodeLayout h
  | decode => exact parseStatus_of_decodeLayout h
  | crcInit | crcUpdate | crcRead | lookupName | lookupAddr | orderIndex | resolveWindow =>
    exact parseStatus_of_fixedLayout h

/-- The empty request, and one with a defined code that no instruction comes of, is refused with ERR_DATA. -/
theorem exists_errData_of_not_parsed {q : List Byte}
    (h : q = [] ∨ ∃ (b : Byte) (l : List Byte) (op : OpCode), q = b :: l ∧ opOf b = some op ∧ ∀ i, decode q ≠ .ok i) :
    ∃ e, decode q = .error e ∧ parseStatus e = .errData := by
  obtain rfl | ⟨b, l, op, rfl, hop, hnot⟩ := h
  · exact ⟨_, rfl, rfl⟩
  · cases hparse : decode (b :: l) with
    | ok i => exact absurd hparse (hnot i)
    | error e => exact ⟨e, rfl, parseStatus_of_decodeOp ((decode_of_opOf_some hop l).symm.trans hparse)⟩

/-- Settles O38: the first clause is the layouts' own condition; in the second the parse's error is a misuse. -/
theorem malformedRequestIsErrData : Obligations.MalformedRequestIsErrData := by
  refine ⟨fun op b q hop => ?_, fun s q rest hinputs hbad => ?_⟩
  · rw [decode_of_opOf_some hop]
    exact decodeOp_isOk_iff op (b :: q)
  · obtain ⟨e, hparse, hstatus⟩ := exists_errData_of_not_parsed hbad
    rw [step_of_parse_error hinputs hparse, hstatus]
    exact congrArg _ (respond_misuse_status rfl _ _)

theorem performRequest_of_ok {q : List Byte} {i : Instr} (h : decode q = .ok i) (s : State) :
    performRequest q s = exec i s := by
  simp only [performRequest, h]

/-- Settles O36: the step of a request is `performRequest`, which runs what the parse gives. -/
theorem stepRunsDecodedRequest : Obligations.StepRunsDecodedRequest := fun _ _ _ _ hinputs hparse =>
  (step_of_request hinputs).trans (performRequest_of_ok hparse _)

end Sys2Proof.Machine

/-! SUPPORT. The algebra of the CRC (R64 to R66, R72): linearity of the shifts gives the table-driven form and the zero
residue; their injectivity gives the detection of single-bit errors. -/

namespace Sys2Proof.Machine

/-! ### Linearity of the shifts (R64) -/

/-- What one iteration adds to the shifted accumulator. -/
def polyIf (bit : Bool) : Word := if bit then Config.crcPoly else 0#16

theorem polyIf_xor (b c : Bool) : polyIf (b ^^ c) = polyIf b ^^^ polyIf c := by
  cases b <;> cases c <;> simp [polyIf]

theorem crcShift_eq_xor (a : Word) : crcShift a = (a >>> 1) ^^^ polyIf (a.getLsbD 0) := by
  unfold crcShift polyIf
  split_ifs <;> simp

theorem crcShift_xor (a b : Word) : crcShift (a ^^^ b) = crcShift a ^^^ crcShift b := by
  simp only [crcShift_eq_xor, BitVec.getLsbD_xor, BitVec.ushiftRight_xor_distrib, polyIf_xor]
  ac_rfl

theorem crcShifts_xor (n : Nat) (a b : Word) : crcShifts n (a ^^^ b) = crcShifts n a ^^^ crcShifts n b := by
  induction n generalizing a b with
  | zero => rfl
  | succ n ih => rw [crcShifts, crcShift_xor, ih]; rfl

/-- While the tested bits are 0 the loop only shifts. -/
theorem crcShifts_of_low_bits_zero (n : Nat) (a : Word) (h : ∀ i < n, a.getLsbD i = false) :
    crcShifts n a = a >>> n := by
  induction n generalizing a with
  | zero => exact (BitVec.ushiftRight_zero a).symm
  | succ n ih =>
    have hshift : crcShift a = a >>> 1 := if_neg (by rw [h 0 (by omega)]; exact Bool.false_ne_true)
    rw [crcShifts, hshift, ih, Nat.add_comm, BitVec.shiftRight_add]
    intro i hi
    rw [BitVec.getLsbD_ushiftRight]
    exact h _ (by omega)

/-! ### The table-driven form (R72 item 4) -/

/-- The input byte is combined with the low byte alone: the high byte stays in place. -/
theorem xor_zext16_eq (acc : Word) (b : Byte) :
    acc ^^^ zext16 b = ((acc >>> 8) <<< 8) ^^^ zext16 (acc.setWidth 8 ^^^ b) := by
  apply BitVec.eq_of_getLsbD_eq
  intro i hi
  by_cases h : i < 8
  · simp [zext16, h, hi]
  · have h8 : 8 + (i - 8) = i := by omega
    simp [zext16, h, hi, h8]

/-- The high byte meets no bit test: it is shifted down, and the rest is a function of the low byte. -/
theorem crcStep_eq_table (acc : Word) (b : Byte) :
    crcStep acc b = (acc >>> 8) ^^^ crcShifts 8 (zext16 (acc.setWidth 8 ^^^ b)) := by
  have hhigh : crcShifts 8 ((acc >>> 8) <<< 8) = acc >>> 8 := by
    rw [crcShifts_of_low_bits_zero 8 _ (fun i hi => by simp [hi])]
    apply BitVec.eq_of_getLsbD_eq
    intro i hi
    by_cases h : 8 + i < 16
    · simp [h]
    · simp [h, BitVec.getLsbD_of_ge acc (8 + i) (by omega)]
  rw [crcStep, xor_zext16_eq, crcShifts_xor, hhigh]

/-- Settles O6: the fold of R65 and the fold over the table take the same step. -/
theorem crcEqualsTableDrivenForm : Obligations.CrcEqualsTableDrivenForm := by
  unfold Obligations.CrcEqualsTableDrivenForm
  intro entry s
  have hstep : crcStep = fun (acc : Word) b => (acc >>> 8) ^^^ entry (acc.setWidth 8 ^^^ b) := by
    funext acc b
    rw [crcStep_eq_table, crcShifts_eq_iterate, funext crcShift_eq, zext16]
  rw [crc16, crcFrom_eq_foldl, hstep]
  rfl

/-! ### The residue (R72 item 2) -/

/-- A byte equal to the accumulator's low byte leaves the high byte alone. -/
theorem crcStep_loByte (acc : Word) : crcStep acc (loByte acc) = acc >>> 8 := by
  have hlow : acc.setWidth 8 ^^^ loByte acc = 0#8 := by
    rw [loByte, ← BitVec.setWidth_eq_extractLsb' (by decide), BitVec.xor_self]
  rw [crcStep_eq_table, hlow]
  exact BitVec.xor_zero

/-- Feeding an accumulator its own two bytes, low byte first, clears it. -/
theorem crcFrom_le16_self (c : Word) : crcFrom c (le16 c) = 0#16 := by
  have hbyte : hiByte c = loByte (c >>> 8) := by
    rw [hiByte, loByte, ← BitVec.setWidth_ushiftRight_eq_extractLsb, ← BitVec.setWidth_ushiftRight_eq_extractLsb,
      BitVec.ushiftRight_zero]
  have hshift : c >>> 8 >>> 8 = 0#16 := by
    rw [← BitVec.shiftRight_add]
    exact BitVec.ushiftRight_eq_zero (by decide)
  calc crcFrom c (le16 c) = crcStep (crcStep c (loByte c)) (hiByte c) := rfl
    _ = 0#16 := by rw [crcStep_loByte, hbyte, crcStep_loByte, hshift]

/-- Settles O8: the CRC field clears the accumulator it was read from. -/
theorem crcResidueIsZero : Obligations.CrcResidueIsZero := by
  intro s
  refine ⟨?_, ?_⟩
  · rw [crc16, crcFrom_append]
    exact crcFrom_le16_self _
  · rw [crcOk_append, beq_self_eq_true]

/-! ### Injectivity, and single-bit errors (R72 item 3) -/

/-- The constant's top bit keeps the bit that was tested. -/
theorem crcShift_getLsbD_top (a : Word) : (crcShift a).getLsbD 15 = a.getLsbD 0 := by
  rw [crcShift_eq_xor]
  cases h : a.getLsbD 0 <;> simp [polyIf, Config.crcPoly]

theorem crcShift_injective : crcShift.Injective := by
  intro a b h
  have hbit : a.getLsbD 0 = b.getLsbD 0 := by rw [← crcShift_getLsbD_top, h, crcShift_getLsbD_top]
  have hrest : a >>> 1 = b >>> 1 := by
    rw [crcShift_eq_xor, crcShift_eq_xor, hbit] at h
    exact (BitVec.xor_left_inj _).mp h
  apply BitVec.eq_of_getLsbD_eq
  intro i hi
  cases i with
  | zero => exact hbit
  | succ i => simpa [Nat.add_comm] using congrArg (fun x : Word => x.getLsbD i) hrest

theorem crcShifts_injective (n : Nat) : (crcShifts n).Injective := by
  rw [funext (crcShifts_eq_iterate n)]
  exact crcShift_injective.iterate n

theorem zext16_injective : zext16.Injective := Function.LeftInverse.injective loByte_zext16

theorem crcStep_injective_acc (b : Byte) : (fun acc => crcStep acc b).Injective := fun _ _ h =>
  (BitVec.xor_left_inj _).mp (crcShifts_injective 8 h)

theorem crcStep_injective_byte (acc : Word) : (crcStep acc).Injective := fun _ _ h =>
  zext16_injective ((BitVec.xor_right_inj _).mp (crcShifts_injective 8 h))

/-- Equal bytes after it cannot make two different accumulators equal again. -/
theorem crcFrom_injective_acc (s : List Byte) : (fun acc => crcFrom acc s).Injective := by
  induction s with
  | nil => exact fun _ _ h => h
  | cons b s ih => exact ih.comp (crcStep_injective_acc b)

/-- Sequences that differ in one byte have different CRCs. -/
theorem crc16_ne_of_byte_ne (s t : List Byte) {x y : Byte} (h : x ≠ y) : crc16 (s ++ x :: t) ≠ crc16 (s ++ y :: t) := by
  simp only [crc16, crcFrom_append, crcFrom_cons]
  exact fun heq => h (crcStep_injective_byte _ (crcFrom_injective_acc t heq))

/-- The CRC field's bytes are the last two. -/
theorem le16_crcField {b : List Byte} (h : 2 ≤ b.length) : le16 (crcField b) = b.drop (b.length - 2) := by
  rw [crcField, le16_rdLe16, ← byteAt_cons_drop (by omega), ← byteAt_cons_drop (by omega),
    List.drop_eq_nil_of_le (by omega)]

/-- A sequence of two bytes and more is a body and the CRC field it ends in. -/
theorem exists_append_le16 {b : List Byte} (h : 2 ≤ b.length) : ∃ s c, b = s ++ le16 c :=
  ⟨b.take (b.length - 2), crcField b, by rw [le16_crcField h, List.take_append_drop]⟩

/-- The check is the residue's: the CRC field is the body's CRC exactly when the whole sequence has CRC 0. -/
theorem crcOk_iff_residue {b : List Byte} (h : 2 ≤ b.length) : crcOk b = true ↔ crc16 b = 0#16 := by
  obtain ⟨s, c, rfl⟩ := exists_append_le16 h
  have hsplit : crc16 (s ++ le16 c) = crcFrom (crc16 s) (le16 c) := crcFrom_append _ s _
  rw [crcOk_append, beq_iff_eq, hsplit, ← crcFrom_le16_self c]
  exact (crcFrom_injective_acc (le16 c)).eq_iff.symm

theorem two_le_length_of_crcOk {b : List Byte} (h : crcOk b = true) : 2 ≤ b.length := by
  simp only [crcOk, Bool.and_eq_true, decide_eq_true_eq] at h
  exact h.1

theorem xor_twoPow_ne (x : Byte) {k : Nat} (hk : k < 8) : x ≠ x ^^^ BitVec.twoPow 8 k := by
  intro h
  simpa [hk] using congrArg (fun y : Byte => y.getLsbD k) h

@[simp] theorem length_flipBit (b : List Byte) (i k : Nat) : (flipBit b i k).length = b.length := by
  simp [flipBit]

/-- Settles O9: the flip changes one byte, so the CRC is no longer 0. -/
theorem crcDetectsSingleBitErrors : Obligations.CrcDetectsSingleBitErrors := by
  intro b i k hok hi hk
  have hlen := two_le_length_of_crcOk hok
  have hflip : flipBit b i k = b.take i ++ (b[i] ^^^ BitVec.twoPow 8 k) :: b.drop (i + 1) :=
    List.modify_eq_take_cons_drop hi
  have hb : b.take i ++ b[i] :: b.drop (i + 1) = b := by
    rw [← List.drop_eq_getElem_cons hi, List.take_append_drop]
  have hne := crc16_ne_of_byte_ne (b.take i) (b.drop (i + 1)) (xor_twoPow_ne b[i] hk)
  rw [hb, ← hflip, (crcOk_iff_residue hlen).mp hok] at hne
  rw [← Bool.not_eq_true, crcOk_iff_residue (by simpa using hlen)]
  exact hne.symm

end Sys2Proof.Machine

/-! SUPPORT. The requests of the CRC16 Engine that carry a buffer (R69, R70), and streaming against one block (R72). -/

namespace Sys2Proof.Machine

/-! ### CRC_BLOCK and CRC_VERIFY (R69, R70) -/

theorem decode_crcBlock {buf : List Byte} (h : buf.length ≤ 256) :
    decode ([0x03#8] ++ be16 (BitVec.ofNat 16 buf.length) ++ buf) = .ok (.crcBlock buf) :=
  decodeEncodeRequest (.crcBlock buf) (decide_eq_true h) rfl

theorem decode_crcVerify {buf : List Byte} (h : buf.length ≤ 256) :
    decode ([0x04#8] ++ be16 (BitVec.ofNat 16 buf.length) ++ buf) = .ok (.crcVerify buf) :=
  decodeEncodeRequest (.crcVerify buf) (decide_eq_true h) rfl

/-- Settles O3: the layout holds the buffer, and the effect is `loadAcc`'s. -/
theorem crcBlockChecksumsBuffer : Obligations.CrcBlockChecksumsBuffer := fun buf s =>
  ⟨decode_crcBlock, loadAcc_eq_afterOk s (crc16 buf)⟩

theorem bodyCrc_append (body : List Byte) (c : Word) : bodyCrc (body ++ le16 c) = crc16 body := by
  simp [bodyCrc, slice]

theorem crcField_append (body : List Byte) (c : Word) : crcField (body ++ le16 c) = c := by
  have h := (rdLe16_append_right (a := body) (b := le16 c) (i := 0)).trans (rdLe16_le16 c [])
  simpa [crcField] using h

theorem exec_crcVerify_of_short {buf : List Byte} (h : buf.length < 2) (s : State) :
    exec (.crcVerify buf) s = raise s .integrityFail blank := if_pos h

/-- CRC_VERIFY of a body and a CRC field compares the field with the body's CRC. -/
theorem exec_crcVerify_append (body : List Byte) (c : Word) (s : State) :
    exec (.crcVerify (body ++ le16 c)) s =
      if crc16 body = c then finish s { crcResult (crc16 body) with crcMatch := true }
      else raise s .integrityFail (crcResult (crc16 body)) := by
  have hlen : ¬ (body ++ le16 c).length < 2 := by simp
  simp only [exec, execCrcVerify, if_neg hlen, bodyCrc_append, crcField_append]

theorem raise_eq_afterDeviceFault {st : Status} (h : isMisuse st = false) (s : State) (r : Response) :
    raise s st r = .next (afterDeviceFault s st r) :=
  congrArg Host.Outcome.next (respond_device_status h s r)

theorem raise_eq_afterMisuse {st : Status} (h : isMisuse st = true) (s : State) (r : Response) :
    raise s st r = .next (afterMisuse s st r) :=
  congrArg Host.Outcome.next (respond_misuse_status h s r)

/-- Settles O4: the buffer is too short to be cut, or its field is compared. -/
theorem crcVerifyComparesTrailingCrc : Obligations.CrcVerifyComparesTrailingCrc := by
  refine ⟨fun buf h => decode_crcVerify h, fun buf s h => ?_, fun body c s h => ?_, fun body c s h => ?_⟩
  · rw [exec_crcVerify_of_short h, raise_eq_afterDeviceFault rfl]
  · rw [exec_crcVerify_append, if_pos h.symm, finish_eq_afterOk]
    rfl
  · rw [exec_crcVerify_append, if_neg (Ne.symm h), raise_eq_afterDeviceFault rfl]
    rfl

/-! ### Streaming (R72 item 1) -/

/-- The state after an operation that reports the value `v` it has put in `ACC`, with `rest` still to come. -/
def reporting (s : State) (v : Word) (rest : List HostEvent) : State :=
  afterOk (setAcc (presenting s rest) v) (crcResult v)

/-- The requests of a stream: one CRC_UPDATE per byte. -/
def updateRequests (bytes : List Byte) : List HostEvent := bytes.map fun b => .request [0x02#8, b]

theorem step_of_ok {s : State} {q : List Byte} {rest : List HostEvent} {i : Instr}
    (hinputs : s.inputs = .request q :: rest) (hparse : decode q = .ok i) :
    step s = exec i { s with inputs := rest } := stepRunsDecodedRequest s q rest i hinputs hparse

theorem runSteps_succ_of_step {s t : State} (h : step s = .next t) (k : Nat) :
    runSteps (k + 1) s = runSteps k t := by
  have hcore : Sys2Proof.core.step s = .next t := h
  simp only [runSteps, Host.Core.run, hcore]
  rfl

/-- A step that puts a value in `ACC` and reports it. -/
theorem step_reporting {s : State} {q : List Byte} {rest : List HostEvent} {i : Instr} {v : Word}
    (hparse : decode q = .ok i) (hexec : exec i (presenting s rest) = loadAcc (presenting s rest) v) :
    step (presenting s (.request q :: rest)) = .next (reporting s v rest) :=
  (step_of_ok rfl hparse).trans (hexec.trans (loadAcc_eq_afterOk _ v))

/-- One CRC_UPDATE per byte feeds the bytes to the accumulator. -/
theorem runSteps_updateRequests (s : State) (v : Word) (bytes : List Byte) (rest : List HostEvent) :
    runSteps bytes.length (reporting s v (updateRequests bytes ++ rest)) = .next (reporting s (crcFrom v bytes) rest) := by
  induction bytes generalizing v with
  | nil => rfl
  | cons b bytes ih =>
    have hparse : decode [0x02#8, b] = .ok (.crcUpdate b) := (crcUpdateFeedsOneByte b s).1
    have hstep : step (reporting s v (updateRequests (b :: bytes) ++ rest)) =
        .next (reporting s (crcStep v b) (updateRequests bytes ++ rest)) :=
      step_reporting (s := reporting s v []) hparse rfl
    exact (runSteps_succ_of_step hstep _).trans (ih (crcStep v b))

/-- Settles O7: both ends are `reporting` of the same value. -/
theorem crcStreamEqualsBlock : Obligations.CrcStreamEqualsBlock := by
  intro s bytes rest hlen
  refine ⟨reporting s (crc16 bytes) rest, rfl, rfl, rfl, ?_, step_reporting (decode_crcBlock hlen) rfl⟩
  obtain ⟨hinit, -, -⟩ := crcInitLoadsInitialValue
  have hstep : step (presenting s (.request [0x01#8] :: (updateRequests bytes ++ rest))) =
      .next (reporting s Config.crcInitial (updateRequests bytes ++ rest)) := step_reporting hinit rfl
  exact (runSteps_succ_of_step hstep _).trans (runSteps_updateRequests s _ bytes rest)

end Sys2Proof.Machine

/-! SUPPORT. The machine: how every instruction and every step ends, and what the ending depends on. -/

namespace Sys2Proof.Machine

/-! ### The three steps (R11, R101, R104) -/

theorem step_of_idle {s : State} (hinputs : s.inputs = []) : step s = .next s := by
  simp only [step, hinputs]

/-- Settles O41: an idle step and the step of a reset event. -/
theorem idleAndResetPortBehaviour : Obligations.IdleAndResetPortBehaviour :=
  ⟨fun _ => step_of_idle, fun _ _ hinputs => ⟨_, step_of_reset hinputs, resetBlock_response _⟩⟩

/-- What the step of a request leaves: the end of that request, past its input. -/
theorem step_request_eq_respond {s : State} {q : List Byte} {rest : List HostEvent}
    (hinputs : s.inputs = .request q :: rest) :
    ∃ v st r, step s = .next (respond (setAcc { s with inputs := rest } v) st r) := by
  obtain ⟨v, st, r, hperform, -⟩ := performRequest_eq_respond q { s with inputs := rest }
  exact ⟨v, st, r, (step_of_request hinputs).trans hperform⟩

/-- Settles O42: every instruction ends, and so does each of the three steps. -/
theorem everyRequestCompletes : Obligations.EveryRequestCompletes := by
  refine ⟨fun i s => ?_, fun s => ?_, fun s q rest hinputs => ?_⟩
  · obtain ⟨v, st, r, hexec, -⟩ := exec_endsAs i s
    exact ⟨_, hexec⟩
  · match hinputs : s.inputs with
    | [] => exact ⟨s, step_of_idle hinputs⟩
    | .reset :: rest => exact ⟨_, step_of_reset hinputs⟩
    | .request q :: rest =>
      obtain ⟨v, st, r, hstep⟩ := step_request_eq_respond hinputs
      exact ⟨_, hstep⟩
  · obtain ⟨v, st, r, hstep⟩ := step_request_eq_respond hinputs
    exact ⟨_, _, hstep, respond_response _ _ _⟩

/-- Settles O48: neither reset nor the end of a request touches the inputs past the first. -/
theorem inputsAreTakenInOrder : Obligations.InputsAreTakenInOrder := by
  intro s t e rest hinputs hstep
  cases e with
  | reset =>
    obtain rfl := Host.Outcome.next.inj ((step_of_reset hinputs).symm.trans hstep)
    exact resetBlock_inputs _
  | request q =>
    obtain ⟨v, st, r, hend⟩ := step_request_eq_respond hinputs
    obtain rfl := Host.Outcome.next.inj (hend.symm.trans hstep)
    rw [respond_inputs, setAcc_inputs]

/-! ### What the ending depends on (R24, R37, R39) -/

/-- Ending a request again as it ended changes nothing: the flag is already set. -/
theorem respond_respond (s : State) (st : Status) (r : Response) : respond (respond s st r) st r = respond s st r := by
  simp [respond]

/-- An instruction that ends alike in every state is idempotent. -/
theorem EndsAlike.idempotent {i : Instr} {w : Option Word} {st : Status} {r : Response} (h : EndsAlike i w st r)
    {s t : State} (ht : exec i s = .next t) : exec i t = .next t := by
  obtain rfl := Host.Outcome.next.inj ((h s).symm.trans ht)
  have hacc : w.getD (w.getD s.acc) = w.getD s.acc := by cases w <;> rfl
  rw [h, respond_acc, setAcc_acc, hacc]
  exact congrArg Host.Outcome.next (respond_respond (setAcc s (w.getD s.acc)) st r)

/-- CRC_READ reports `ACC` and leaves it, so it reports the same again. -/
theorem crcRead_idempotent {s t : State} (h : exec .crcRead s = .next t) : exec .crcRead t = .next t := by
  obtain rfl := finish_next_iff.mp h
  exact congrArg Host.Outcome.next (respond_respond s .ok (crcResult s.acc))

/-- Settles O46: CRC_READ apart, an instruction other than CRC_UPDATE ends alike in every state. -/
theorem operationsAreIdempotent : Obligations.OperationsAreIdempotent := by
  intro i s t hupdate h
  by_cases hread : i = .crcRead
  · subst hread
    exact crcRead_idempotent h
  · obtain ⟨w, st, r, hend⟩ := exec_endsAlike i hupdate hread
    exact hend.idempotent h

/-- A value for `ACC` and the response fields as functions of `ACC`, and a status: all that an instruction's end is. -/
theorem exec_eq_respond_acc (i : Instr) :
    ∃ (v : Word → Word) (st : Status) (r : Word → Response),
      ∀ s, exec i s = .next (respond (setAcc s (v s.acc)) st (r s.acc)) := by
  by_cases hupdate : ∃ b, i = .crcUpdate b
  · obtain ⟨b, rfl⟩ := hupdate
    exact ⟨fun a => crcStep a b, .ok, fun a => crcResult (crcStep a b), fun _ => rfl⟩
  · by_cases hread : i = .crcRead
    · subst hread
      exact ⟨id, .ok, crcResult, fun _ => rfl⟩
    · obtain ⟨w, st, r, hend⟩ := exec_endsAlike i (fun b h => hupdate ⟨b, h⟩) hread
      exact ⟨w.getD, st, fun _ => r, hend⟩

theorem performRequest_eq_respond_acc (q : List Byte) :
    ∃ (v : Word → Word) (st : Status) (r : Word → Response),
      ∀ s, performRequest q s = .next (respond (setAcc s (v s.acc)) st (r s.acc)) := by
  cases hparse : decode q with
  | error e => exact ⟨id, parseStatus e, fun _ => blank, performRequest_of_error hparse⟩
  | ok i =>
    obtain ⟨v, st, r, hexec⟩ := exec_eq_respond_acc i
    exact ⟨v, st, r, fun s => (performRequest_of_ok hparse s).trans (hexec s)⟩

/-- Settles O47: the end of a request is made of `ACC` and the flag, and the rest of the state passes through. -/
theorem responseDependsOnStateAndRequest : Obligations.ResponseDependsOnStateAndRequest := by
  intro s s' t q rest rest' hinputs hinputs' hacc hmisuse hstep
  obtain ⟨v, st, r, hperform⟩ := performRequest_eq_respond_acc q
  obtain rfl := Host.Outcome.next.inj ((hperform _).symm.trans ((step_of_request hinputs).symm.trans hstep))
  rw [step_of_request hinputs', hperform]
  simp [respond, setAcc, hacc, hmisuse]

end Sys2Proof.Machine

/-! SUPPORT. The operations of the register catalog (R60 to R63). -/

namespace Sys2Proof.Machine

/-! ### LOOKUP_NAME (R60) -/

/-- The declared ranges of R18, by identifier. -/
def declaredRange (r : Byte) : Option (Word × Word) :=
  if r.toNat = 0 then some (0#16, 50#16)
  else if r.toNat = 1 ∨ r.toNat = 10 then some (0#16, 5#16)
  else if r.toNat = 6 ∨ r.toNat = 9 then some (0#16, 1#16)
  else none

theorem entryOf_range (r : Byte) : (entryOf r).bind CatalogEntry.range = declaredRange r := by
  revert r
  decide

theorem exists_entryOf {r : Byte} (h : r.toNat < 13) : ∃ e, entryOf r = some e ∧ e.range = declaredRange r := by
  have hsome : (entryOf r).isSome = true := by rw [entryOf_isSome, (unknownReg_eq_false_iff r).mpr h]; rfl
  obtain ⟨e, he⟩ := Option.isSome_iff_exists.mp hsome
  exact ⟨e, he, by rw [← entryOf_range, he]; rfl⟩

theorem precOf_of_lt {r : Byte} (h : r.toNat < 13) : precOf r = Config.prec ⟨r.toNat, h⟩ := dif_pos h

/-- The lookup fields of a register, its declared range written out. -/
theorem lookupResult_eq {r : Byte} {e : CatalogEntry} (hrange : e.range = declaredRange r) (h : r.toNat < 13) :
    lookupResult r e = { blank with
      lkAddr := r.setWidth 16
      lkPrec := Config.prec ⟨r.toNat, h⟩
      lkHasRange := decide (r.toNat = 0 ∨ r.toNat = 1 ∨ r.toNat = 6 ∨ r.toNat = 9 ∨ r.toNat = 10)
      lkMin := 0#16
      lkMax := if r.toNat = 0 then 50#16 else if r.toNat = 1 ∨ r.toNat = 10 then 5#16
        else if r.toNat = 6 ∨ r.toNat = 9 then 1#16 else 0#16 } := by
  rw [lookupResult, hrange, addrOf_eq, precOf_of_lt h, declaredRange]
  split_ifs with h0 h1 h6
  · simp [h0, zext16]
  · have hin : r.toNat = 0 ∨ r.toNat = 1 ∨ r.toNat = 6 ∨ r.toNat = 9 ∨ r.toNat = 10 := by omega
    simp [hin, zext16]
  · have hin : r.toNat = 0 ∨ r.toNat = 1 ∨ r.toNat = 6 ∨ r.toNat = 9 ∨ r.toNat = 10 := by omega
    simp [hin, zext16]
  · have hout : ¬ (r.toNat = 0 ∨ r.toNat = 1 ∨ r.toNat = 6 ∨ r.toNat = 9 ∨ r.toNat = 10) := by omega
    simp [hout, zext16, blank]

theorem exec_lookupName_of_entry {r : Byte} {e : CatalogEntry} (h : entryOf r = some e) (s : State) :
    exec (.lookupName r) s = finish s (lookupResult r e) := by
  simp only [exec, execLookupName, h]

theorem exec_lookupName_of_none {r : Byte} (h : entryOf r = none) (s : State) :
    exec (.lookupName r) s = raise s .errUnknownRegister blank := by
  simp only [exec, execLookupName, h]

/-- Settles O10: an identifier below 13 has an entry, whose range is the declared one; any other has none. -/
theorem lookupNameReturnsEntry : Obligations.LookupNameReturnsEntry := by
  refine ⟨fun r => decodeEncodeRequest (.lookupName r) rfl rfl, fun r h s => ?_, fun r s h => ?_⟩
  · obtain ⟨e, hentry, hrange⟩ := exists_entryOf h
    rw [exec_lookupName_of_entry hentry, finish_eq_afterOk, lookupResult_eq hrange h]
  · have hnone : entryOf r = none := by
      rw [← Option.not_isSome_iff_eq_none, entryOf_isSome, (unknownReg_eq_true_iff r).mpr h]
      decide
    rw [exec_lookupName_of_none hnone, raise_eq_afterMisuse rfl]

/-! ### LOOKUP_ADDR (R61) -/

theorem loByte_eq_setWidth (a : Word) : loByte a = a.setWidth 8 :=
  (BitVec.setWidth_eq_extractLsb' (by decide)).symm

theorem regOfAddr_of_le {a : Word} (h : a.toNat ≤ 12) : regOfAddr a = some (a.setWidth 8) := by
  rw [← loByte_eq_setWidth, regOfAddr_eq_some_iff]
  exact ⟨h, zext16_loByte (by omega)⟩

theorem regOfAddr_of_lt {a : Word} (h : 12 < a.toNat) : regOfAddr a = none := by
  rw [Option.eq_none_iff_forall_ne_some]
  intro r hr
  obtain ⟨hle, -⟩ := (regOfAddr_eq_some_iff a r).mp hr
  omega

/-- The two address bytes of a request are the address, high byte first. -/
theorem be16_append (hi lo : Byte) : be16 (hi ++ lo) = [hi, lo] := by
  have hhi : hiByte (hi ++ lo) = hi := BitVec.extractLsb'_append_eq_left
  have hlo : loByte (hi ++ lo) = lo := BitVec.extractLsb'_append_eq_right
  rw [be16, hhi, hlo]

theorem decode_lookupAddr (hi lo : Byte) : decode [0x31#8, hi, lo] = .ok (.lookupAddr (hi ++ lo)) := by
  have h := decodeEncodeRequest (.lookupAddr (hi ++ lo)) rfl rfl
  rwa [encode, be16_append] at h

/-- Settles O11: the address map compares both bytes, and the identifier is the low one. -/
theorem lookupAddrComparesBothBytes : Obligations.LookupAddrComparesBothBytes := by
  refine ⟨decode_lookupAddr, fun a s h => ?_, fun a s h => ?_⟩
  · have hexec : exec (.lookupAddr a) s = finish s { blank with lkReg := a.setWidth 8 } := by
      simp only [exec, execLookupAddr, regOfAddr_of_le h]
    rw [hexec, finish_eq_afterOk]
  · have hexec : exec (.lookupAddr a) s = raise s .errUnknownRegister blank := by
      simp only [exec, execLookupAddr, regOfAddr_of_lt h]
    rw [hexec, raise_eq_afterMisuse rfl]

/-! ### ORDER_INDEX and RESOLVE_WINDOW (R62, R63) -/

/-- Settles O12: the identifier is its own ordinal. -/
theorem orderIndexReturnsOrdinal : Obligations.OrderIndexReturnsOrdinal := by
  refine ⟨fun r => decodeEncodeRequest (.orderIndex r) rfl rfl, fun r s h => ?_, fun r s h => ?_⟩
  · rw [exec_orderIndex_of_lt h, finish_eq_afterOk]
  · rw [exec_orderIndex_of_ge h, raise_eq_afterMisuse rfl]

theorem byte_eq_zero_iff (c : Byte) : c = 0#8 ↔ c.toNat = 0 := by
  rw [← BitVec.toNat_inj, BitVec.toNat_ofNat]

/-- The span check of a known register, in the numbers of R63. -/
theorem exec_resolveWindow_of_lt {r : Byte} (h : r.toNat < 13) (c : Byte) (s : State) :
    exec (.resolveWindow r c) s =
      if c.toNat = 0 ∨ 13 < r.toNat + c.toNat then raise s .errSpan blank
      else finish s { blank with count := c, regs := window r c.toNat } := by
  simp [exec, execResolveWindow, (unknownReg_eq_false_iff r).mpr h, byte_eq_zero_iff]

theorem exec_resolveWindow_of_ge {r : Byte} (h : 13 ≤ r.toNat) (c : Byte) (s : State) :
    exec (.resolveWindow r c) s = raise s .errUnknownRegister blank := by
  simp [exec, execResolveWindow, (unknownReg_eq_true_iff r).mpr h]

/-- Settles O13: the start is checked, then the span; a window inside the catalog does not wrap. -/
theorem resolveWindowStaysInCatalog : Obligations.ResolveWindowStaysInCatalog := by
  refine ⟨fun r c => decodeEncodeRequest (.resolveWindow r c) rfl rfl, fun r c s hpos hspan => ?_,
    fun r c s hr hbad => ?_, fun r c s hr => ?_⟩
  · rw [exec_resolveWindow_of_lt (by omega), if_neg (by omega), finish_eq_afterOk, window_eq_map r _ (by omega)]
  · rw [exec_resolveWindow_of_lt hr, if_pos hbad, raise_eq_afterMisuse rfl]
  · rw [exec_resolveWindow_of_ge hr, raise_eq_afterMisuse rfl]

end Sys2Proof.Machine

/-! SUPPORT. The wire frames (R52 to R58): what the decoders of request and response frames accept, and that this is what
the encoder writes. -/

namespace Sys2Proof.Machine

/-! ### The six bytes most frames begin with (R54 to R57) -/

/-- Address, function code and two 16-bit fields. -/
def frameHead (addr function : Byte) (first second : Word) : List Byte := [addr, function] ++ be16 first ++ be16 second

section
variable (a fn : Byte) (v w : Word) (t : List Byte)

@[simp] theorem length_frameHead : (frameHead a fn v w).length = 6 := rfl
@[simp] theorem rdBe16_frameHead_first : rdBe16 (frameHead a fn v w ++ t) 2 = v := join_hi_lo v
@[simp] theorem rdBe16_frameHead_second : rdBe16 (frameHead a fn v w ++ t) 4 = w := join_hi_lo w
end

/-- A sequence of six bytes and more begins with the head its own fields give. -/
theorem frameHead_append_drop {f : List Byte} (h : 6 ≤ f.length) :
    frameHead (byteAt f 0) (byteAt f 1) (rdBe16 f 2) (rdBe16 f 4) ++ f.drop 6 = f := by
  simp (disch := omega) only [frameHead, be16_rdBe16, List.cons_append, List.nil_append, byteAt_cons_drop,
    List.drop_zero]

theorem frameHead_inj {a fn a' fn' : Byte} {v w v' w' : Word} :
    frameHead a fn v w = frameHead a' fn' v' w' ↔ a = a' ∧ fn = fn' ∧ v = v' ∧ w = w' := by
  constructor
  · intro h
    have hread := fun i => congrArg (fun l => byteAt (l ++ []) i) h
    have hword := fun i => congrArg (fun l => rdBe16 (l ++ []) i) h
    exact ⟨hread 0, hread 1, by simpa only [rdBe16_frameHead_first] using hword 2,
      by simpa only [rdBe16_frameHead_second] using hword 4⟩
  · rintro ⟨rfl, rfl, rfl, rfl⟩
    rfl

/-! ### Signed sequences (R52, R66) -/

theorem crcOk_signed (s : List Byte) : crcOk (signed s) = true := by
  rw [signed, crcOk_append, beq_self_eq_true]

/-- A sequence that passes the check is signed: its last two bytes are the CRC of the others. -/
theorem eq_signed_of_crcOk {s t : List Byte} (ht : t.length = 2) (h : crcOk (s ++ t) = true) : s ++ t = signed s := by
  obtain ⟨x, y, rfl⟩ := List.length_eq_two.mp ht
  have hfield : [x, y] = le16 (rdLe16 [x, y] 0) := (le16_rdLe16 [x, y] 0).symm
  rw [hfield, crcOk_append, beq_iff_eq] at h
  rw [hfield, ← h, signed]

/-- A frame of eight bytes that passes the check is its head, signed. -/
theorem eq_signed_frameHead {f : List Byte} (hlen : f.length = 8) (h : crcOk f = true) :
    f = signed (frameHead (byteAt f 0) (byteAt f 1) (rdBe16 f 2) (rdBe16 f 4)) := by
  have hsplit := frameHead_append_drop (f := f) (by omega)
  rw [← hsplit] at h
  exact hsplit.symm.trans (eq_signed_of_crcOk (by simp [hlen]) h)

section
variable (a fn : Byte) (v w : Word) (t : List Byte)

theorem byteAt_signed_addr : byteAt (signed (frameHead a fn v w ++ t)) 0 = a := rfl
theorem byteAt_signed_function : byteAt (signed (frameHead a fn v w ++ t)) 1 = fn := rfl
theorem rdBe16_signed_first : rdBe16 (signed (frameHead a fn v w ++ t)) 2 = v := join_hi_lo v
theorem rdBe16_signed_second : rdBe16 (signed (frameHead a fn v w ++ t)) 4 = w := join_hi_lo w
end

/-! ### Request frames (R54 to R56) -/

/-- The fields of a request frame of a mode, its CRC and its start address already checked. -/
def requestFrameFields (m : Mode) (f : List Byte) (start : Byte) : Except FrameError Instr :=
  match m with
  | .read => readFrameFields f start
  | .singleWrite => singleWriteFrameFields f start
  | .multipleWrite => multipleWriteFrameFields f start

/-- What a request frame is: a good CRC, a mode's function code, a register's address, and that mode's fields. -/
theorem decodeRequestFrame_eq_ok_iff (f : List Byte) (i : Instr) :
    decodeRequestFrame f = .ok i ↔ 8 ≤ f.length ∧ crcOk f = true ∧ ∃ m start,
      modeOf (byteAt f 1) = some m ∧ regOfAddr (rdBe16 f 2) = some start ∧ requestFrameFields m f start = .ok i := by
  unfold decodeRequestFrame
  by_cases hlen : f.length < 8
  · simp [hlen]
  · cases hcrc : crcOk f with
    | false => simp [hlen]
    | true =>
      cases modeOf (byteAt f 1) with
      | none => simp [hlen]
      | some m =>
        cases regOfAddr (rdBe16 f 2) with
        | none => simp [hlen]
        | some start => cases m <;> simp [hlen, requestFrameFields] <;> omega

theorem word_eq_zero_iff (v : Word) : v = 0#16 ↔ v.toNat = 0 := by
  rw [← BitVec.toNat_inj, BitVec.toNat_ofNat]

theorem readFrameFields_eq_ok_iff (f : List Byte) (start : Byte) (i : Instr) :
    readFrameFields f start = .ok i ↔ f.length = 8 ∧ 0 < (rdBe16 f 4).toNat ∧
      start.toNat + (rdBe16 f 4).toNat ≤ 13 ∧ i = .frameReadRequest (byteAt f 0) start (loByte (rdBe16 f 4)) := by
  unfold readFrameFields
  simp only [word_eq_zero_iff]
  split_ifs <;> grind

theorem singleWriteFrameFields_eq_ok_iff (f : List Byte) (start : Byte) (i : Instr) :
    singleWriteFrameFields f start = .ok i ↔ f.length = 8 ∧ i = .frameSingleWriteRequest
      { addr := byteAt f 0, start := start, count := 1#8, data := [rdBe16 f 4] } := by
  unfold singleWriteFrameFields
  split_ifs <;> grind

theorem multipleWriteFrameFields_eq_ok_iff (f : List Byte) (start : Byte) (i : Instr) :
    multipleWriteFrameFields f start = .ok i ↔ f.length = 9 + (byteAt f 6).toNat ∧ 0 < (rdBe16 f 4).toNat ∧
      start.toNat + (rdBe16 f 4).toNat ≤ 13 ∧ (byteAt f 6).toNat = 2 * (rdBe16 f 4).toNat ∧
      i = .frameMultipleWriteRequest
        { addr := byteAt f 0, start := start, count := loByte (rdBe16 f 4),
          data := readWords f 7 (rdBe16 f 4).toNat } := by
  unfold multipleWriteFrameFields
  simp only [word_eq_zero_iff]
  split_ifs <;> grind

/-- What a request-frame form can carry, in the numbers of R73. -/
theorem spanOk_iff (start count : Byte) :
    spanOk start count = true ↔ start.toNat < 13 ∧ 0 < count.toNat ∧ start.toNat + count.toNat ≤ 13 := by
  simp [spanOk, byte_eq_zero_iff, Nat.pos_iff_ne_zero, and_assoc]

theorem readRequestFrame_eq (a start count : Byte) :
    readRequestFrame a start count = signed (frameHead a 0x03#8 (zext16 start) (zext16 count)) := rfl

theorem singleWriteRequestFrame_eq (a start count : Byte) (v : Word) :
    singleWriteRequestFrame { addr := a, start := start, count := count, data := [v] } =
      signed (frameHead a 0x06#8 (zext16 start) v) := rfl

theorem multipleWriteRequestFrame_eq (a start count : Byte) (data : List Word) :
    multipleWriteRequestFrame { addr := a, start := start, count := count, data := data } =
      signed (frameHead a 0x10#8 (zext16 start) (zext16 count) ++ ([byteOf (2 * count.toNat)] ++ wordBytes data)) := by
  simp [multipleWriteRequestFrame, frameHead]

/-- A register's address on the wire names that register. -/
theorem regOfAddr_zext16 {r : Byte} (h : r.toNat < 13) : regOfAddr (zext16 r) = some r :=
  (regOfAddr_eq_some_iff _ r).mpr ⟨by rw [toNat_zext16]; omega, rfl⟩

/-- A signed frame whose head gives a mode's function code and a register's address is read by that mode's fields. -/
theorem decodeRequestFrame_signed {m : Mode} {a start : Byte} {w : Word} {t : List Byte} {i : Instr}
    (hstart : start.toNat < 13)
    (hfields : requestFrameFields m (signed (frameHead a (modeCode m) (zext16 start) w ++ t)) start = .ok i) :
    decodeRequestFrame (signed (frameHead a (modeCode m) (zext16 start) w ++ t)) = .ok i := by
  refine (decodeRequestFrame_eq_ok_iff _ i).mpr ⟨by simp, crcOk_signed _, m, start, ?_, ?_, hfields⟩
  · rw [byteAt_signed_function, modeOf_eq_some_iff]
  · rw [rdBe16_signed_first, regOfAddr_zext16 hstart]

theorem decode_readRequestFrame {a start count : Byte} (h : (Instr.frameReadRequest a start count).wf = true) :
    decodeRequestFrame (encode (.frameReadRequest a start count)) = .ok (.frameReadRequest a start count) := by
  obtain ⟨hstart, hpos, hspan⟩ := (spanOk_iff start count).mp h
  have hcount := rdBe16_signed_second a 0x03#8 (zext16 start) (zext16 count) []
  refine decodeRequestFrame_signed (m := .read) (t := []) hstart ((readFrameFields_eq_ok_iff _ _ _).mpr ?_)
  rw [modeCode, hcount, toNat_zext16, loByte_zext16]
  exact ⟨rfl, hpos, hspan, rfl⟩

theorem decode_singleWriteRequestFrame {c : CommandArgs} (h : (Instr.frameSingleWriteRequest c).wf = true) :
    decodeRequestFrame (encode (.frameSingleWriteRequest c)) = .ok (.frameSingleWriteRequest c) := by
  obtain ⟨a, start, count, data⟩ := c
  simp only [Instr.wf, Bool.and_eq_true, beq_iff_eq, spanOk_iff] at h
  obtain ⟨⟨⟨hstart, -, -⟩, rfl⟩, hdata⟩ := h
  obtain ⟨v, rfl⟩ := List.length_eq_one_iff.mp hdata
  have hvalue := rdBe16_signed_second a 0x06#8 (zext16 start) v []
  refine decodeRequestFrame_signed (m := .singleWrite) (a := a) (start := start) (w := v) (t := []) hstart
    ((singleWriteFrameFields_eq_ok_iff _ _ _).mpr ?_)
  rw [modeCode, hvalue]
  exact ⟨rfl, rfl⟩

theorem byteAt_signed_byteCount (a fn : Byte) (v w : Word) (n : Byte) (t : List Byte) :
    byteAt (signed (frameHead a fn v w ++ ([n] ++ t))) 6 = n := rfl

/-- The values of a MULTIPLE_WRITE request stand after its head and its byte count. -/
theorem readWords_signed_data (a fn : Byte) (v w : Word) (n : Byte) (data : List Word) :
    readWords (signed (frameHead a fn v w ++ ([n] ++ wordBytes data))) 7 data.length = data := by
  have h := readWords_wordBytes (frameHead a fn v w ++ [n]) data
    (le16 (crc16 (frameHead a fn v w ++ ([n] ++ wordBytes data))))
  simpa [signed] using h

theorem decode_multipleWriteRequestFrame {c : CommandArgs} (h : (Instr.frameMultipleWriteRequest c).wf = true) :
    decodeRequestFrame (encode (.frameMultipleWriteRequest c)) = .ok (.frameMultipleWriteRequest c) := by
  obtain ⟨a, start, count, data⟩ := c
  simp only [Instr.wf, Bool.and_eq_true, beq_iff_eq, spanOk_iff] at h
  obtain ⟨⟨hstart, hpos, hspan⟩, hdata⟩ := h
  rw [encode, multipleWriteRequestFrame_eq]
  refine decodeRequestFrame_signed (m := .multipleWrite) hstart ((multipleWriteFrameFields_eq_ok_iff _ _ _).mpr ?_)
  rw [modeCode, rdBe16_signed_second, byteAt_signed_byteCount, byteAt_signed_addr, toNat_zext16, loByte_zext16,
    toNat_byteOf (by omega), ← hdata, readWords_signed_data]
  exact ⟨by simp; omega, by omega, by omega, rfl, rfl⟩

/-- Settles O54: mode by mode, the fields that the decoder reads are those the frame was written with. -/
theorem requestFrameRoundTrip : Obligations.RequestFrameRoundTrip :=
  ⟨fun _ _ _ => decode_readRequestFrame, fun _ => decode_singleWriteRequestFrame,
    fun _ => decode_multipleWriteRequestFrame⟩

/-! ### Bytes read as a request frame (R52 to R58) -/

theorem toNat_loByte {v : Word} (h : v.toNat < 256) : (loByte v).toNat = v.toNat := by
  rw [← toNat_zext16, zext16_loByte h]

theorem readRequestFrame_canonical {f : List Byte} {start : Byte} {i : Instr} (hcrc : crcOk f = true)
    (hfunction : byteAt f 1 = 0x03#8) (haddr : zext16 start = rdBe16 f 2) (hstart : start.toNat < 13)
    (hfields : readFrameFields f start = .ok i) : encode i = f ∧ i.wf = true := by
  obtain ⟨hlen, hpos, hspan, rfl⟩ := (readFrameFields_eq_ok_iff f start i).mp hfields
  have hcount : zext16 (loByte (rdBe16 f 4)) = rdBe16 f 4 := zext16_loByte (by omega)
  constructor
  · rw [encode, readRequestFrame_eq, haddr, hcount, ← hfunction]
    exact (eq_signed_frameHead hlen hcrc).symm
  · rw [Instr.wf, spanOk_iff, toNat_loByte (by omega)]
    exact ⟨hstart, hpos, hspan⟩

theorem singleWriteRequestFrame_canonical {f : List Byte} {start : Byte} {i : Instr} (hcrc : crcOk f = true)
    (hfunction : byteAt f 1 = 0x06#8) (haddr : zext16 start = rdBe16 f 2) (hstart : start.toNat < 13)
    (hfields : singleWriteFrameFields f start = .ok i) : encode i = f ∧ i.wf = true := by
  obtain ⟨hlen, rfl⟩ := (singleWriteFrameFields_eq_ok_iff f start i).mp hfields
  constructor
  · rw [encode, singleWriteRequestFrame_eq, haddr, ← hfunction]
    exact (eq_signed_frameHead hlen hcrc).symm
  · have hspan : spanOk start 1#8 = true := (spanOk_iff start 1#8).mpr ⟨hstart, by decide, by simpa using hstart⟩
    simp [Instr.wf, hspan]

/-- The bytes of a MULTIPLE_WRITE request frame past its head: byte count, values and CRC field. -/
theorem drop_six_eq {f : List Byte} {n : Nat} (hlen : f.length = 9 + 2 * n) :
    f.drop 6 = [byteAt f 6] ++ wordBytes (readWords f 7 n) ++ f.drop (7 + 2 * n) := by
  have hvalues := wordBytes_readWords f 7 n (by omega)
  have htail : (f.drop 7).take (2 * n) ++ f.drop (7 + 2 * n) = f.drop 7 := by
    rw [← List.drop_drop (l := f) (i := 2 * n) (j := 7), List.take_append_drop]
  rw [hvalues, List.append_assoc, htail]
  exact (byteAt_cons_drop (by omega)).symm

theorem multipleWriteRequestFrame_canonical {f : List Byte} {start : Byte} {i : Instr} (hcrc : crcOk f = true)
    (hfunction : byteAt f 1 = 0x10#8) (haddr : zext16 start = rdBe16 f 2) (hstart : start.toNat < 13)
    (hfields : multipleWriteFrameFields f start = .ok i) : encode i = f ∧ i.wf = true := by
  obtain ⟨hlen, hpos, hspan, hbytes, rfl⟩ := (multipleWriteFrameFields_eq_ok_iff f start i).mp hfields
  have hcount : zext16 (loByte (rdBe16 f 4)) = rdBe16 f 4 := zext16_loByte (by omega)
  have hn : (loByte (rdBe16 f 4)).toNat = (rdBe16 f 4).toNat := toNat_loByte (by omega)
  have hsplit := frameHead_append_drop (f := f) (by omega)
  rw [drop_six_eq (n := (rdBe16 f 4).toNat) (by omega), ← List.append_assoc] at hsplit
  constructor
  · rw [← hsplit] at hcrc
    rw [encode, multipleWriteRequestFrame_eq, haddr, hcount, hn, ← hbytes, byteOf_toNat, ← hfunction,
      ← List.append_assoc]
    exact (eq_signed_of_crcOk (by simp; omega) hcrc).symm.trans hsplit
  · rw [Instr.wf, Bool.and_eq_true, spanOk_iff, hn]
    exact ⟨⟨hstart, hpos, hspan⟩, by simp⟩

/-- Settles O55: the CRC, the function code and the start address are the frame's, and each mode's fields are the rest. -/
theorem requestFrameCanonical : Obligations.RequestFrameCanonical := by
  intro f i h
  obtain ⟨-, hcrc, m, start, hmode, hreg, hfields⟩ := (decodeRequestFrame_eq_ok_iff f i).mp h
  have hfunction := (modeOf_eq_some_iff _ m).mp hmode
  obtain ⟨hle, haddr⟩ := (regOfAddr_eq_some_iff _ start).mp hreg
  have hstart : start.toNat < 13 := by rw [← haddr, toNat_zext16] at hle; omega
  cases m with
  | read => exact readRequestFrame_canonical hcrc hfunction haddr hstart hfields
  | singleWrite => exact singleWriteRequestFrame_canonical hcrc hfunction haddr hstart hfields
  | multipleWrite => exact multipleWriteRequestFrame_canonical hcrc hfunction haddr hstart hfields

end Sys2Proof.Machine

/-! SUPPORT. The response frames (R57): what their decoders accept, that this is what the encoder writes, and that DECODE
of such bytes runs as the form they are. -/

namespace Sys2Proof.Machine

/-! ### What each response layout accepts (R57, R58) -/

theorem readResponseFields_eq_ok_iff (c : CommandArgs) (r : List Byte) (i : Instr) :
    readResponseFields c r = .ok i ↔ byteAt r 1 = 0x03#8 ∧ (byteAt r 2).toNat % 2 = 0 ∧
      r.length = 5 + (byteAt r 2).toNat ∧
      i = .frameReadResponse c (byteAt r 0) (readWords r 3 ((byteAt r 2).toNat / 2)) (crcField r) := by
  unfold readResponseFields
  split_ifs <;> grind

theorem singleWriteResponseFields_eq_ok_iff (c : CommandArgs) (r : List Byte) (i : Instr) :
    singleWriteResponseFields c r = .ok i ↔ r.length = 8 ∧ byteAt r 1 = 0x06#8 ∧
      i = .frameSingleWriteResponse c (byteAt r 0) (rdBe16 r 2) (rdBe16 r 4) (crcField r) := by
  unfold singleWriteResponseFields
  split_ifs <;> grind

theorem multipleWriteResponseFields_eq_ok_iff (c : CommandArgs) (r : List Byte) (i : Instr) :
    multipleWriteResponseFields c r = .ok i ↔ r.length = 8 ∧ byteAt r 1 = 0x10#8 ∧
      i = .frameMultipleWriteResponse c (byteAt r 0) (rdBe16 r 2) (rdBe16 r 4) (crcField r) := by
  unfold multipleWriteResponseFields
  split_ifs <;> grind

/-! ### The frames written (R57) -/

theorem echoFrame_eq (a fn : Byte) (v w k : Word) : echoFrame a fn v w k = frameHead a fn v w ++ le16 k := rfl

theorem crcField_echoFrame (a fn : Byte) (v w k : Word) : crcField (echoFrame a fn v w k) = k :=
  crcField_append (frameHead a fn v w) k

theorem length_readResponseFrame (a : Byte) (vs : List Word) (k : Word) :
    (readResponseFrame a vs k).length = 5 + 2 * vs.length := by
  simp [readResponseFrame]
  omega

theorem readWords_readResponseFrame (a : Byte) (vs : List Word) (k : Word) :
    readWords (readResponseFrame a vs k) 3 vs.length = vs :=
  readWords_wordBytes [a, 0x03#8, byteOf (2 * vs.length)] vs (le16 k)

theorem decode_readResponseFrame {c : CommandArgs} {a : Byte} {vs : List Word} {k : Word}
    (h : (Instr.frameReadResponse c a vs k).wf = true) :
    decodeResponseFrame .read c (encode (.frameReadResponse c a vs k)) = .ok (.frameReadResponse c a vs k) := by
  simp only [Instr.wf, Bool.and_eq_true, decide_eq_true_eq] at h
  obtain ⟨-, hmax : 5 + 2 * vs.length ≤ 256⟩ := h
  have hcount : byteAt (readResponseFrame a vs k) 2 = byteOf (2 * vs.length) := rfl
  have hbytes : (byteOf (2 * vs.length)).toNat = 2 * vs.length := toNat_byteOf (by omega)
  refine (readResponseFields_eq_ok_iff c _ _).mpr ⟨rfl, ?_⟩
  rw [encode, hcount, hbytes, Nat.mul_div_cancel_left _ (by decide), readWords_readResponseFrame]
  refine ⟨by omega, length_readResponseFrame a vs k, ?_⟩
  rw [readResponseFrame, crcField_append]
  rfl

/-- Settles O56: each layout reads the fields that its frame was written with. -/
theorem responseFrameRoundTrip : Obligations.ResponseFrameRoundTrip := by
  refine ⟨fun c a vs k => decode_readResponseFrame, fun c a x y k => ?_, fun c a x y k => ?_⟩
  · refine (singleWriteResponseFields_eq_ok_iff c _ _).mpr ⟨rfl, rfl, ?_⟩
    rw [encode, crcField_echoFrame, echoFrame_eq, rdBe16_frameHead_first, rdBe16_frameHead_second]
    rfl
  · refine (multipleWriteResponseFields_eq_ok_iff c _ _).mpr ⟨rfl, rfl, ?_⟩
    rw [encode, crcField_echoFrame, echoFrame_eq, rdBe16_frameHead_first, rdBe16_frameHead_second]
    rfl

/-! ### Bytes read as a response frame (R53, R57) -/

/-- The three bytes a READ response begins with, and the rest. -/
theorem readHead_append_drop {r : List Byte} (h : 3 ≤ r.length) :
    [byteAt r 0, byteAt r 1, byteAt r 2] ++ r.drop 3 = r := by
  simp (disch := omega) only [List.cons_append, List.nil_append, byteAt_cons_drop, List.drop_zero]

theorem readResponseFrame_canonical {r : List Byte} (hfunction : byteAt r 1 = 0x03#8)
    (heven : (byteAt r 2).toNat % 2 = 0) (hlen : r.length = 5 + (byteAt r 2).toNat) :
    readResponseFrame (byteAt r 0) (readWords r 3 ((byteAt r 2).toNat / 2)) (crcField r) = r := by
  have hhalf : 2 * ((byteAt r 2).toNat / 2) = (byteAt r 2).toNat := by omega
  have hvalues := wordBytes_readWords r 3 ((byteAt r 2).toNat / 2) (by omega)
  have htail : (r.drop 3).take (byteAt r 2).toNat ++ r.drop (r.length - 2) = r.drop 3 := by
    have hoff : r.length - 2 = 3 + (byteAt r 2).toNat := by omega
    rw [hoff, ← List.drop_drop (l := r) (j := 3), List.take_append_drop]
  rw [readResponseFrame, length_readWords, hvalues, hhalf, byteOf_toNat, le16_crcField (by omega), List.append_assoc,
    htail, ← hfunction, readHead_append_drop (by omega)]

theorem echoFrame_canonical {r : List Byte} {fn : Byte} (hfunction : byteAt r 1 = fn) (hlen : r.length = 8) :
    echoFrame (byteAt r 0) fn (rdBe16 r 2) (rdBe16 r 4) (crcField r) = r := by
  rw [echoFrame_eq, le16_crcField (by omega), hlen, ← hfunction]
  exact frameHead_append_drop (by omega)

/-- Bytes read as a response frame are that frame's encoding. -/
theorem encode_of_decodeResponseFrame {m : Mode} {c : CommandArgs} {r : List Byte} {i : Instr}
    (h : decodeResponseFrame m c r = .ok i) : encode i = r := by
  cases m with
  | read =>
    obtain ⟨hfunction, heven, hlen, rfl⟩ := (readResponseFields_eq_ok_iff c r i).mp h
    exact readResponseFrame_canonical hfunction heven hlen
  | singleWrite =>
    obtain ⟨hlen, hfunction, rfl⟩ := (singleWriteResponseFields_eq_ok_iff c r i).mp h
    exact echoFrame_canonical hfunction hlen
  | multipleWrite =>
    obtain ⟨hlen, hfunction, rfl⟩ := (multipleWriteResponseFields_eq_ok_iff c r i).mp h
    exact echoFrame_canonical hfunction hlen

/-- A response-frame form runs as DECODE of its own bytes, in its mode. -/
theorem exec_of_decodeResponseFrame {m : Mode} {c : CommandArgs} {r : List Byte} {i : Instr}
    (h : decodeResponseFrame m c r = .ok i) (s : State) : exec i s = decodeResponse (withMode c m) (encode i) s := by
  cases m with
  | read => obtain ⟨-, -, -, rfl⟩ := (readResponseFields_eq_ok_iff c r i).mp h; rfl
  | singleWrite => obtain ⟨-, -, rfl⟩ := (singleWriteResponseFields_eq_ok_iff c r i).mp h; rfl
  | multipleWrite => obtain ⟨-, -, rfl⟩ := (multipleWriteResponseFields_eq_ok_iff c r i).mp h; rfl

/-- Settles O35: the form's bytes are the response, and it runs as DECODE of its bytes. -/
theorem decodeRunsItsWireForm : Obligations.DecodeRunsItsWireForm := by
  intro m c r i s h
  have hbytes := encode_of_decodeResponseFrame h
  refine ⟨hbytes, ?_⟩
  rw [exec_of_decodeResponseFrame h, hbytes]
  rfl

end Sys2Proof.Machine

/-! SUPPORT. ENCODE and the request-frame forms (R73 to R80): which commands are accepted, what each mode builds, and that
the frame built is its form's encoding. -/

namespace Sys2Proof.Machine

/-! ### Accepted commands (R73) -/

theorem cmdCheck_read_ok {a start count : Byte} (data : List Word) (hstart : start.toNat < 13) (hpos : 0 < count.toNat)
    (hspan : start.toNat + count.toNat ≤ 13) :
    cmdCheck { addr := a, mode := 0x03#8, start := start, count := count, data := data } = .ok := by
  have hcount : count ≠ 0#8 := by rw [Ne, byte_eq_zero_iff]; omega
  exact (cmdCheck_ok_iff _).mpr ⟨(by decide : modeOf 0x03#8 ≠ none), hstart, hcount, hspan,
    fun h => absurd h (by decide : 0x03#8 ≠ 0x06#8), fun h => absurd h (by decide : 0x03#8 ≠ 0x10#8)⟩

theorem cmdCheck_singleWrite_ok {a start : Byte} (v : Word) (hstart : start.toNat < 13) :
    cmdCheck { addr := a, mode := 0x06#8, start := start, count := 1#8, data := [v] } = .ok :=
  (cmdCheck_ok_iff _).mpr ⟨(by decide : modeOf 0x06#8 ≠ none), hstart, (by decide : 1#8 ≠ 0#8), hstart,
    fun _ => ⟨rfl, rfl⟩, fun h => absurd h (by decide : 0x06#8 ≠ 0x10#8)⟩

theorem cmdCheck_multipleWrite_ok {a start count : Byte} {data : List Word} (hstart : start.toNat < 13)
    (hpos : 0 < count.toNat) (hspan : start.toNat + count.toNat ≤ 13) (hdata : data.length = count.toNat) :
    cmdCheck { addr := a, mode := 0x10#8, start := start, count := count, data := data } = .ok := by
  have hcount : count ≠ 0#8 := by rw [Ne, byte_eq_zero_iff]; omega
  exact (cmdCheck_ok_iff _).mpr ⟨(by decide : modeOf 0x10#8 ≠ none), hstart, hcount, hspan,
    fun h => absurd h (by decide : 0x10#8 ≠ 0x06#8), fun _ => hdata⟩

/-! ### What each mode builds (R75 to R79) -/

theorem readFrame_eq (d : Descriptor) :
    (build .read d).frame = signed (frameHead d.addr 0x03#8 (zext16 d.start) (zext16 d.count)) := by
  rw [← addrOf_eq]
  rfl

theorem singleWriteFrame_eq (d : Descriptor) :
    (build .singleWrite d).frame = signed (frameHead d.addr 0x06#8 (zext16 d.start) (firstData d)) := by
  rw [← addrOf_eq]
  rfl

/-- The device echoes a single write. -/
theorem singleWriteTemplate_eq (d : Descriptor) :
    (build .singleWrite d).template = signed (frameHead d.addr 0x06#8 (zext16 d.start) (firstData d)) :=
  singleWriteFrame_eq d

theorem multipleWriteFrame_eq (d : Descriptor) :
    (build .multipleWrite d).frame = signed (frameHead d.addr 0x10#8 (zext16 d.start) (zext16 d.count) ++
      [byteOf (2 * d.count.toNat)] ++ wordBytes d.data) := by
  rw [← addrOf_eq]
  rfl

theorem multipleWriteTemplate_eq (d : Descriptor) :
    (build .multipleWrite d).template = signed (frameHead d.addr 0x10#8 (zext16 d.start) (zext16 d.count)) := by
  rw [← addrOf_eq]
  rfl

/-- What ENCODE answers a READ command does not depend on its data. -/
theorem encodeResult_read (d : Descriptor) :
    encodeResult .read d = { blank with
      frame := signed (frameHead d.addr 0x03#8 (zext16 d.start) (zext16 d.count))
      template := signed ([d.addr, 0x03#8, byteOf (2 * d.count.toNat)] ++ List.replicate (2 * d.count.toNat) 0x00#8)
      tmask := [true, true, true] ++ List.replicate (2 * d.count.toNat) false ++ [false, false]
      expLen := byteOf (5 + 2 * d.count.toNat) } := by
  rw [encodeResult, readFrame_eq, length_readTemplate]
  rfl

theorem encodeResult_singleWrite (d : Descriptor) :
    encodeResult .singleWrite d = { blank with
      frame := signed (frameHead d.addr 0x06#8 (zext16 d.start) (firstData d))
      template := signed (frameHead d.addr 0x06#8 (zext16 d.start) (firstData d))
      tmask := List.replicate 8 true
      expLen := 8#8 } := by
  simp only [encodeResult, singleWriteFrame_eq, singleWriteTemplate_eq]
  rfl

theorem encodeResult_multipleWrite (d : Descriptor) :
    encodeResult .multipleWrite d = { blank with
      frame := signed (frameHead d.addr 0x10#8 (zext16 d.start) (zext16 d.count) ++ [byteOf (2 * d.count.toNat)] ++
        wordBytes d.data)
      template := signed (frameHead d.addr 0x10#8 (zext16 d.start) (zext16 d.count))
      tmask := List.replicate 8 true
      expLen := 8#8 } := by
  simp only [encodeResult, multipleWriteFrame_eq, multipleWriteTemplate_eq]
  rfl

/-- ENCODE of an accepted command answers its mode's build, however that is written. -/
theorem exec_encode_of_result {d : Descriptor} {m : Mode} {r : Response} (hcheck : cmdCheck d = .ok)
    (hmode : modeOf d.mode = some m) (hr : encodeResult m d = r) (s : State) :
    exec (.encode d) s = .next (afterOk s r) :=
  hr ▸ exec_encode_of_accepted hcheck hmode s

/-- Settles O15: the form is ENCODE of the command without data, and the answer does not depend on the data. -/
theorem encodeReadBuildsFrame : Obligations.EncodeReadBuildsFrame := by
  intro addr start count data s hstart hpos hspan f t after
  have hencode : ∀ data' : List Word, exec (.encode
      { addr := addr, mode := 0x03#8, start := start, count := count, data := data' }) s = .next after := fun data' =>
    exec_encode_of_result (cmdCheck_read_ok data' hstart hpos hspan) rfl (encodeResult_read _) s
  exact ⟨hencode data, hencode []⟩

/-- Settles O16: the form is ENCODE of the same command. -/
theorem encodeSingleWriteBuildsFrame : Obligations.EncodeSingleWriteBuildsFrame := by
  intro addr start v s hstart f after
  have hencode : exec (.encode
      { addr := addr, mode := 0x06#8, start := start, count := 1#8, data := [v] }) s = .next after :=
    exec_encode_of_result (cmdCheck_singleWrite_ok v hstart) rfl (encodeResult_singleWrite _) s
  exact ⟨hencode, hencode⟩

/-- Settles O17: the form is ENCODE of the same command. -/
theorem encodeMultipleWriteBuildsFrame : Obligations.EncodeMultipleWriteBuildsFrame := by
  unfold Obligations.EncodeMultipleWriteBuildsFrame
  simp only [← wordBytes_eq_flatMap]
  intro addr start count data s hstart hpos hspan hdata
  have hencode := exec_encode_of_result (cmdCheck_multipleWrite_ok (a := addr) hstart hpos hspan hdata) rfl
    (encodeResult_multipleWrite _) s
  exact ⟨hencode, hencode⟩

/-! ### Refused commands (R73, R97) -/

theorem modeOf_eq_none_iff (b : Byte) : modeOf b = none ↔ b ≠ 0x03#8 ∧ b ≠ 0x06#8 ∧ b ≠ 0x10#8 := by
  unfold modeOf
  split_ifs <;> simp_all

theorem byte_eq_one_iff (c : Byte) : c = 1#8 ↔ c.toNat = 1 := by
  rw [← BitVec.toNat_inj, BitVec.toNat_ofNat]

/-- The check of R73 in its order, in numbers. -/
theorem cmdCheck_eq (d : Descriptor) :
    cmdCheck d = if d.mode ≠ 0x03#8 ∧ d.mode ≠ 0x06#8 ∧ d.mode ≠ 0x10#8 then Status.errUnsupportedMode
      else if 13 ≤ d.start.toNat then .errUnknownRegister
      else if d.count.toNat = 0 ∨ 13 < d.start.toNat + d.count.toNat then .errSpan
      else if d.mode = 0x06#8 ∧ d.count.toNat ≠ 1 then .errSpan
      else if d.mode = 0x06#8 ∧ d.data.length ≠ 1 then .errData
      else if d.mode = 0x10#8 ∧ d.data.length ≠ d.count.toNat then .errData
      else .ok := by
  simp only [cmdCheck, modeOf_eq_none_iff, unknownReg_eq_true_iff, byte_eq_zero_iff, byte_eq_one_iff, ne_eq]

theorem isMisuse_cmdCheck {d : Descriptor} (h : cmdCheck d ≠ .ok) : isMisuse (cmdCheck d) = true := by
  rcases cmdCheck_cases d with h' | h' | h' | h' | h'
  · exact absurd h' h
  all_goals rw [h']; rfl

theorem exec_encode_of_refused {d : Descriptor} (h : cmdCheck d ≠ .ok) (s : State) :
    exec (.encode d) s = .next (afterMisuse s (cmdCheck d) blank) := by
  rcases encodeCommand_cases d s with ⟨-, e⟩ | ⟨hok, -⟩
  · exact e.trans (raise_eq_afterMisuse (isMisuse_cmdCheck h) s blank)
  · exact absurd hok h

/-- The check of a READ command does not look at its data. -/
theorem cmdCheck_read_data (d : Descriptor) (h : d.mode = 0x03#8) : cmdCheck { d with data := [] } = cmdCheck d := by
  simp [cmdCheck, h]

/-- Settles O18: the chain of the statement is the check's, and the forms are ENCODE of their command. -/
theorem encodeRefusesInOrder : Obligations.EncodeRefusesInOrder := by
  intro d s st hst hfail
  rw [← cmdCheck_eq] at hst
  subst hst
  have hencode := exec_encode_of_refused hfail s
  obtain ⟨addr, mode, start, count, data⟩ := d
  refine ⟨hencode, ?_, ?_, ?_⟩
  · rintro rfl
    rw [← cmdCheck_read_data _ rfl] at hfail ⊢
    exact exec_encode_of_refused hfail s
  · rintro rfl
    exact hencode
  · rintro rfl
    exact hencode

/-! ### The frame is its form's encoding (R52 to R58) -/

/-- The request-frame form of a command in a mode. -/
def requestForm (m : Mode) (d : Descriptor) : Instr :=
  let c : CommandArgs := { addr := d.addr, start := d.start, count := d.count, data := d.data }
  match m with
  | .read => .frameReadRequest d.addr d.start d.count
  | .singleWrite => .frameSingleWriteRequest c
  | .multipleWrite => .frameMultipleWriteRequest c

theorem encode_requestForm (m : Mode) (d : Descriptor) : encode (requestForm m d) = (build m d).frame := by
  cases m with
  | read => exact (readFrame_eq d).symm
  | singleWrite => exact (singleWriteFrame_eq d).symm
  | multipleWrite => exact (multipleWriteFrame_eq d).symm

/-- The form of an accepted command can be carried by a frame. -/
theorem wf_requestForm {m : Mode} {d : Descriptor} (hmode : d.mode = modeCode m) (hcheck : cmdCheck d = .ok) :
    (requestForm m d).wf = true := by
  obtain ⟨-, hstart, hcount, hspan, hsingle, hmultiple⟩ := (cmdCheck_ok_iff d).mp hcheck
  have hpos : 0 < d.count.toNat := Nat.pos_of_ne_zero (mt (byte_eq_zero_iff _).mpr hcount)
  have hok : spanOk d.start d.count = true := (spanOk_iff _ _).mpr ⟨hstart, hpos, hspan⟩
  cases m with
  | read => exact hok
  | singleWrite =>
    obtain ⟨hone, hdata⟩ := hsingle hmode
    simp [requestForm, Instr.wf, hok, hdata, ← hone]
  | multipleWrite =>
    have hdata := hmultiple hmode
    simp [requestForm, Instr.wf, hok, hdata]

theorem decodeRequestFrame_encode_requestForm {m : Mode} {d : Descriptor} (h : (requestForm m d).wf = true) :
    decodeRequestFrame (encode (requestForm m d)) = .ok (requestForm m d) := by
  obtain ⟨hread, hsingle, hmultiple⟩ := requestFrameRoundTrip
  cases m with
  | read => exact hread _ _ _ h
  | singleWrite => exact hsingle _ h
  | multipleWrite => exact hmultiple _ h

theorem exec_requestForm {m : Mode} {d : Descriptor} (hmode : d.mode = modeCode m) (hcheck : cmdCheck d = .ok)
    (s : State) : exec (requestForm m d) s = .next (afterOk s (encodeResult m d)) := by
  obtain ⟨addr, mode, start, count, data⟩ := d
  obtain rfl : mode = modeCode m := hmode
  have hencode := exec_encode_of_accepted hcheck ((modeOf_eq_some_iff _ m).mpr rfl) s
  cases m with
  | read =>
    rw [← cmdCheck_read_data _ rfl] at hcheck
    exact exec_encode_of_result hcheck rfl ((encodeResult_read _).trans (encodeResult_read _).symm) s
  | singleWrite => exact hencode
  | multipleWrite => exact hencode

/-- Settles O22: a successful ENCODE answers with the frame of its command's form. -/
theorem encodeFrameIsItsWireForm : Obligations.EncodeFrameIsItsWireForm := by
  intro d s t r hexec hresp hok
  obtain ⟨m, hmode, hcheck, rfl, rfl⟩ := encode_ok_inv hexec hresp hok
  have hframe : encode (requestForm m d) = (encodeResult m d).frame := encode_requestForm m d
  refine ⟨requestForm m d, ?_, hframe, exec_requestForm hmode hcheck s⟩
  rw [← decodeRequestFrame_encode_requestForm (wf_requestForm hmode hcheck), hframe]

end Sys2Proof.Machine

/-! SUPPORT. DECODE (R82 to R89): its checks in order, the template verdict of each mode in the response's own fields, and
what each mode extracts. -/

namespace Sys2Proof.Machine

/-! ### The checks in order (R83, R97) -/

theorem exec_decode_of_bad_crc {r : List Byte} (h : crcOk r = false) (d : Descriptor) (s : State) :
    exec (.decode d r) s = .next (afterDeviceFault s .integrityFail (decodeFailure d)) := by
  have hraise : exec (.decode d r) s = raise s .integrityFail (decodeFailure d) := by
    simp [exec, execDecode, decodeResponse, h]
  exact hraise.trans (raise_eq_afterDeviceFault rfl s _)

theorem exec_decode_of_refused {d : Descriptor} {r : List Byte} (hcrc : crcOk r = true) (h : cmdCheck d ≠ .ok)
    (s : State) : exec (.decode d r) s = .next (afterMisuse s (cmdCheck d) (decodeFailure d)) := by
  have hraise : exec (.decode d r) s = raise s (cmdCheck d) (decodeFailure d) := by
    simp [exec, execDecode, decodeResponse, hcrc, h]
  exact hraise.trans (raise_eq_afterMisuse (isMisuse_cmdCheck h) s _)

/-- Settles O23: the CRC is checked first; the sentinel and the empty response are below two bytes. -/
theorem decodeChecksCrcFirst : Obligations.DecodeChecksCrcFirst :=
  ⟨fun d _ s h => exec_decode_of_bad_crc h d s, exec_decode_of_bad_crc rfl, exec_decode_of_bad_crc rfl⟩

/-- Settles O24: both make the same check of the command. -/
theorem decodeRefusesWhatEncodeRefuses : Obligations.DecodeRefusesWhatEncodeRefuses := by
  intro d b s t r hcrc hexec hresp hfail
  by_cases hcheck : cmdCheck d = .ok
  · obtain ⟨hmode, -⟩ := (cmdCheck_ok_iff d).mp hcheck
    obtain ⟨m, hm⟩ := Option.ne_none_iff_exists'.mp hmode
    obtain rfl := Host.Outcome.next.inj ((exec_encode_of_accepted hcheck hm s).symm.trans hexec)
    obtain rfl := Option.some.inj hresp
    exact absurd rfl hfail
  · obtain rfl := Host.Outcome.next.inj ((exec_encode_of_refused hcheck s).symm.trans hexec)
    obtain rfl := Option.some.inj hresp
    exact exec_decode_of_refused hcrc hcheck s

section
variable {d : Descriptor} {m : Mode} {r : List Byte}

/-- With both checks passed, DECODE answers what the mode's rule extracts. -/
theorem exec_decode_of_some {x : Decoded} (hcrc : crcOk r = true) (hcheck : cmdCheck d = .ok)
    (hmode : modeOf d.mode = some m) (hx : perMode m d r = some x) (s : State) :
    exec (.decode d r) s = .next (afterOk s (decodeResult m d r x)) := by
  simp [exec, execDecode, decodeResponse, hcrc, hcheck, hmode, hx, finish_eq_afterOk]

theorem exec_decode_of_none (hcrc : crcOk r = true) (hcheck : cmdCheck d = .ok)
    (hmode : modeOf d.mode = some m) (hx : perMode m d r = none) (s : State) :
    exec (.decode d r) s = .next (afterDeviceFault s .errFormat (decodeFailure d)) := by
  have hraise : exec (.decode d r) s = raise s .errFormat (decodeFailure d) := by
    simp [exec, execDecode, decodeResponse, hcrc, hcheck, hmode, hx]
  exact hraise.trans (raise_eq_afterDeviceFault rfl s _)
end

/-! ### The template verdict (R87) -/

/-- Under a mask of zeros every sequence of the template's length matches. -/
theorem matchesTemplate_replicate_false (t r : List Byte) :
    matchesTemplate t (List.replicate t.length false) r = decide (r.length = t.length) := by
  rw [Bool.eq_iff_iff, decide_eq_true_iff, matchesTemplate_iff t _ r List.length_replicate, and_iff_left_iff_imp]
  intro hlen i hi
  exact .inl (List.getElem?_replicate_of_lt (by omega))

/-- The READ template past its three fixed bytes: the placeholders and the CRC over them, all unmasked. -/
def readTemplateTail (d : Descriptor) : List Byte :=
  List.replicate (2 * d.count.toNat) Config.placeholder ++ le16 (crc16 (readBody d).template)

theorem length_readTemplateTail (d : Descriptor) : (readTemplateTail d).length = 2 * d.count.toNat + 2 := by
  simp [readTemplateTail]

theorem readTemplate_eq_cons (d : Descriptor) :
    (build .read d).template = d.addr :: 0x03#8 :: byteOf (2 * d.count.toNat) :: readTemplateTail d := rfl

theorem readTmask_eq_cons (d : Descriptor) :
    (build .read d).tmask = true :: true :: true :: List.replicate (readTemplateTail d).length false := by
  rw [readTmask_eq, length_readTemplateTail]
  rfl

/-- A READ response matches on length, byte count, address and function code. -/
theorem tmatch_read {d : Descriptor} {r : List Byte} (hcount : d.count.toNat ≤ 13)
    (hlen : r.length = 5 + (byteAt r 2).toNat) :
    tmatch .read d r =
      decide ((byteAt r 2).toNat = 2 * d.count.toNat ∧ byteAt r 0 = d.addr ∧ byteAt r 1 = 0x03#8) := by
  obtain ⟨x, y, n, t, rfl⟩ : ∃ x y n t, r = x :: y :: n :: t :=
    ⟨_, _, _, _, (readHead_append_drop (by omega)).symm⟩
  have hbyte : n = byteOf (2 * d.count.toNat) ↔ n.toNat = 2 * d.count.toNat := by
    rw [← BitVec.toNat_inj, toNat_byteOf (by omega)]
  have htail : t.length = 2 + n.toNat := by
    have h : t.length + 3 = 5 + n.toNat := hlen
    omega
  rw [Bool.eq_iff_iff, decide_eq_true_iff, tmatch, readTemplate_eq_cons, readTmask_eq_cons]
  simp only [matchesTemplate, matchesTemplate_replicate_false, Bool.not_true, Bool.false_or, Bool.and_eq_true, beq_iff_eq,
    decide_eq_true_eq, hbyte]
  rw [length_readTemplateTail, htail]
  constructor
  · rintro ⟨haddr, hfunction, hcount, -⟩
    exact ⟨hcount, haddr, hfunction⟩
  · rintro ⟨hcount : n.toNat = _, haddr, hfunction⟩
    exact ⟨haddr, hfunction, hcount, by omega⟩

/-- Under a mask of ones only the template itself matches. -/
theorem matchesTemplate_replicate_true_iff (t r : List Byte) :
    matchesTemplate t (List.replicate t.length true) r = true ↔ r = t := by
  rw [matchesTemplate_iff t _ r List.length_replicate]
  constructor
  · rintro ⟨hlen, h⟩
    refine List.ext_getElem? fun i => ?_
    by_cases hi : i < r.length
    · refine (h i hi).resolve_left ?_
      rw [List.getElem?_replicate_of_lt (by omega)]
      decide
    · rw [List.getElem?_eq_none (by omega), List.getElem?_eq_none (by omega)]
  · rintro rfl
    exact ⟨rfl, fun i _ => .inr rfl⟩

theorem tmatch_write_iff {m : Mode} (hm : m ≠ .read) (d : Descriptor) (r : List Byte) :
    tmatch m d r = true ↔ r = (build m d).template := by
  rw [tmatch, writeTmask_eq hm, ← length_writeTemplate hm d, matchesTemplate_replicate_true_iff]

theorem signed_injective : signed.Injective := fun s t h =>
  List.append_inj_left' (t₁ := le16 (crc16 s)) (t₂ := le16 (crc16 t)) h rfl

/-- An eight-byte response with a good CRC matches a template of a head and its CRC on the head's four fields. -/
theorem tmatch_write {m : Mode} (hm : m ≠ .read) {d : Descriptor} {r : List Byte} {a fn : Byte} {v w : Word}
    (htemplate : (build m d).template = signed (frameHead a fn v w)) (hlen : r.length = 8) (hcrc : crcOk r = true) :
    tmatch m d r = decide (byteAt r 0 = a ∧ byteAt r 1 = fn ∧ rdBe16 r 2 = v ∧ rdBe16 r 4 = w) := by
  have hmatch : r = (build m d).template ↔ byteAt r 0 = a ∧ byteAt r 1 = fn ∧ rdBe16 r 2 = v ∧ rdBe16 r 4 = w := by
    rw [htemplate, ← frameHead_inj, ← signed_injective.eq_iff (a := frameHead _ _ _ _), ← eq_signed_frameHead hlen hcrc]
  rw [Bool.eq_iff_iff, decide_eq_true_iff, tmatch_write_iff hm, hmatch]

/-! ### What each mode extracts (R84 to R86) -/

theorem decodeRead_eq (d : Descriptor) (r : List Byte) :
    decodeRead d r =
      if 5 ≤ r.length ∧ (byteAt r 2).toNat % 2 = 0 ∧ r.length = 5 + (byteAt r 2).toNat ∧
          d.start.toNat + (byteAt r 2).toNat / 2 ≤ 13 then
        some (window d.start ((byteAt r 2).toNat / 2), readWords r 3 ((byteAt r 2).toNat / 2))
      else none := by
  unfold decodeRead
  dsimp only
  split_ifs <;> grind

theorem decodeSingleWrite_eq (r : List Byte) :
    decodeSingleWrite r =
      if r.length = 8 ∧ (rdBe16 r 2).toNat ≤ 12 then some ([(rdBe16 r 2).setWidth 8], [rdBe16 r 4]) else none := by
  by_cases hlen : r.length = 8
  · by_cases hreg : (rdBe16 r 2).toNat ≤ 12
    · simp [decodeSingleWrite, hlen, hreg, regOfAddr_of_le]
    · simp [decodeSingleWrite, hlen, hreg, regOfAddr_of_lt (Nat.lt_of_not_le hreg)]
  · simp [decodeSingleWrite, hlen]

theorem decodeMultipleWrite_eq (d : Descriptor) (r : List Byte) :
    decodeMultipleWrite d r =
      if r.length = 8 ∧ rdBe16 r 2 = zext16 d.start ∧ rdBe16 r 4 = zext16 d.count then
        some (window d.start d.count.toNat, d.data.take d.count.toNat)
      else none := by
  unfold decodeMultipleWrite
  rw [addrOf_eq]
  split_ifs <;> grind

section
variable {d : Descriptor} {r : List Byte}

/-- DECODE of a READ response whose structure is right (R84). -/
theorem exec_decode_read (hmode : d.mode = 0x03#8) (hcheck : cmdCheck d = .ok) (hcrc : crcOk r = true)
    (heven : (byteAt r 2).toNat % 2 = 0) (hlen : r.length = 5 + (byteAt r 2).toNat)
    (hwindow : d.start.toNat + (byteAt r 2).toNat / 2 ≤ 13) (s : State) :
    exec (.decode d r) s = .next (afterOk s { blank with
      mode := 0x03#8, valid := true, address := d.addr
      count := byteOf ((byteAt r 2).toNat / 2)
      regs := (List.range' d.start.toNat ((byteAt r 2).toNat / 2)).map (BitVec.ofNat 8)
      values := readWords r 3 ((byteAt r 2).toNat / 2)
      tmatch := decide ((byteAt r 2).toNat = 2 * d.count.toNat ∧ byteAt r 0 = d.addr ∧ byteAt r 1 = 0x03#8) }) := by
  obtain ⟨-, -, -, hspan, -⟩ := (cmdCheck_ok_iff d).mp hcheck
  have hrule : perMode .read d r = _ := (decodeRead_eq d r).trans (if_pos ⟨by omega, heven, hlen, hwindow⟩)
  rw [exec_decode_of_some hcrc hcheck ((modeOf_eq_some_iff _ .read).mpr hmode) hrule, decodeResult,
    tmatch_read (by omega) hlen, length_window, window_eq_map _ _ (by omega), hmode]

/-- DECODE of a SINGLE_WRITE response that echoes a register (R85). -/
theorem exec_decode_singleWrite (hmode : d.mode = 0x06#8) (hcheck : cmdCheck d = .ok) (hcrc : crcOk r = true)
    (hlen : r.length = 8) (hreg : (rdBe16 r 2).toNat ≤ 12) (s : State) :
    exec (.decode d r) s = .next (afterOk s { blank with
      mode := 0x06#8, valid := true, address := d.addr, count := 1#8
      regs := [(rdBe16 r 2).setWidth 8]
      values := [rdBe16 r 4]
      tmatch := decide (byteAt r 0 = d.addr ∧ byteAt r 1 = 0x06#8 ∧ rdBe16 r 2 = zext16 d.start ∧
        rdBe16 r 4 = firstData d) }) := by
  have hrule : perMode .singleWrite d r = _ := (decodeSingleWrite_eq r).trans (if_pos ⟨hlen, hreg⟩)
  rw [exec_decode_of_some hcrc hcheck ((modeOf_eq_some_iff _ .singleWrite).mpr hmode) hrule, decodeResult,
    tmatch_write (by decide) (singleWriteTemplate_eq d) hlen hcrc, hmode]
  rfl

/-- DECODE of a MULTIPLE_WRITE response that echoes the command's span (R86). -/
theorem exec_decode_multipleWrite (hmode : d.mode = 0x10#8) (hcheck : cmdCheck d = .ok) (hcrc : crcOk r = true)
    (hlen : r.length = 8) (hfirst : rdBe16 r 2 = zext16 d.start) (hsecond : rdBe16 r 4 = zext16 d.count) (s : State) :
    exec (.decode d r) s = .next (afterOk s { blank with
      mode := 0x10#8, valid := true, address := d.addr, count := d.count
      regs := (List.range' d.start.toNat d.count.toNat).map (BitVec.ofNat 8)
      values := d.data
      tmatch := decide (byteAt r 0 = d.addr ∧ byteAt r 1 = 0x10#8) }) := by
  obtain ⟨-, -, -, hspan, -, hdata⟩ := (cmdCheck_ok_iff d).mp hcheck
  have hrule : perMode .multipleWrite d r = _ :=
    (decodeMultipleWrite_eq d r).trans (if_pos ⟨hlen, hfirst, hsecond⟩)
  rw [exec_decode_of_some hcrc hcheck ((modeOf_eq_some_iff _ .multipleWrite).mpr hmode) hrule, decodeResult,
    tmatch_write (by decide) (multipleWriteTemplate_eq d) hlen hcrc, length_window, byteOf_toNat,
    window_eq_map _ _ (by omega), List.take_of_length_le (hdata hmode).le, hmode]
  simp only [hfirst, hsecond, and_true]

end

/-- Settles O25: the rule's structure checks hold, or they are ERR_FORMAT. -/
theorem decodeReadExtractsValues : Obligations.DecodeReadExtractsValues := by
  unfold Obligations.DecodeReadExtractsValues
  simp only [← readWords_eq_map]
  intro addr start count data r s hstart hpos hspan hcrc
  have hcheck := cmdCheck_read_ok (a := addr) data hstart hpos hspan
  split_ifs with h
  · obtain ⟨-, heven, hlen, hwindow⟩ := h
    exact exec_decode_read rfl hcheck hcrc heven hlen hwindow s
  · exact exec_decode_of_none hcrc hcheck rfl ((decodeRead_eq _ r).trans (if_neg h)) s

theorem take_six_eq_iff {r : List Byte} (h : r.length = 8) (a fn : Byte) (v w : Word) :
    r.take 6 = frameHead a fn v w ↔ byteAt r 0 = a ∧ byteAt r 1 = fn ∧ rdBe16 r 2 = v ∧ rdBe16 r 4 = w := by
  have htake : r.take 6 = frameHead (byteAt r 0) (byteAt r 1) (rdBe16 r 2) (rdBe16 r 4) := by
    have hleft := List.take_left (l₁ := frameHead (byteAt r 0) (byteAt r 1) (rdBe16 r 2) (rdBe16 r 4)) (l₂ := r.drop 6)
    rwa [frameHead_append_drop (by omega), length_frameHead] at hleft
  rw [htake, frameHead_inj]

/-- Settles O26: register and value are the echo's, and the six bytes compared are the template's head. -/
theorem decodeSingleWriteExtractsEcho : Obligations.DecodeSingleWriteExtractsEcho := by
  intro addr start v r s hstart hcrc d
  have hcheck : cmdCheck d = .ok := cmdCheck_singleWrite_ok v hstart
  split_ifs with h
  · obtain ⟨hlen, hreg⟩ := h
    have hmatch : decide (r.take 6 = [addr, 0x06#8] ++ be16 (start.setWidth 16) ++ be16 v) =
        decide (byteAt r 0 = addr ∧ byteAt r 1 = 0x06#8 ∧ rdBe16 r 2 = zext16 start ∧ rdBe16 r 4 = v) :=
      decide_eq_decide.mpr (take_six_eq_iff hlen addr 0x06#8 (zext16 start) v)
    rw [hmatch]
    exact exec_decode_singleWrite rfl hcheck hcrc hlen hreg s
  · exact exec_decode_of_none hcrc hcheck rfl ((decodeSingleWrite_eq r).trans (if_neg h)) s

/-- Settles O27: the echoed span is the command's, or the response is ERR_FORMAT. -/
theorem decodeMultipleWriteChecksEcho : Obligations.DecodeMultipleWriteChecksEcho := by
  intro addr start count data r s hstart hpos hspan hdata hcrc d
  have hcheck : cmdCheck d = .ok := cmdCheck_multipleWrite_ok hstart hpos hspan hdata
  split_ifs with h
  · obtain ⟨hlen, hfirst, hsecond⟩ := h
    exact exec_decode_multipleWrite rfl hcheck hcrc hlen hfirst hsecond s
  · exact exec_decode_of_none hcrc hcheck rfl ((decodeMultipleWrite_eq d r).trans (if_neg h)) s

end Sys2Proof.Machine

/-! SUPPORT. The response-frame forms on frames given by their fields (R84 to R86), and the correct device (R90, R91). -/

namespace Sys2Proof.Machine

/-! ### Frames given by their fields, with their own CRC (R57) -/

/-- A READ response's bytes before its CRC field. -/
def readResponseBody (a : Byte) (vs : List Word) : List Byte := [a, 0x03#8, byteOf (2 * vs.length)] ++ wordBytes vs

section
variable {d : Descriptor}

/-- DECODE of a READ response of these values, against an accepted command. -/
theorem exec_decode_readResponse (hmode : d.mode = 0x03#8) (hcheck : cmdCheck d = .ok) (a : Byte) {vs : List Word}
    (hwindow : d.start.toNat + vs.length ≤ 13) (s : State) :
    exec (.decode d (signed (readResponseBody a vs))) s = .next (afterOk s { blank with
      mode := 0x03#8, valid := true, address := d.addr
      count := byteOf vs.length
      regs := (List.range' d.start.toNat vs.length).map (BitVec.ofNat 8)
      values := vs
      tmatch := decide (vs.length = d.count.toNat ∧ a = d.addr) }) := by
  have hbytes : (byteAt (signed (readResponseBody a vs)) 2).toNat = 2 * vs.length :=
    toNat_byteOf (n := 2 * vs.length) (by omega)
  have hhalf : (byteAt (signed (readResponseBody a vs)) 2).toNat / 2 = vs.length := by omega
  have hlen : (signed (readResponseBody a vs)).length = 5 + 2 * vs.length := length_readResponseFrame a vs _
  have hvalues : readWords (signed (readResponseBody a vs)) 3 vs.length = vs := readWords_readResponseFrame a vs _
  have hmatch : (2 * vs.length = 2 * d.count.toNat ∧ byteAt (signed (readResponseBody a vs)) 0 = d.addr ∧
      byteAt (signed (readResponseBody a vs)) 1 = 0x03#8) ↔ vs.length = d.count.toNat ∧ a = d.addr :=
    ⟨fun ⟨hn, ha, _⟩ => ⟨by omega, ha⟩, fun ⟨hn, ha⟩ => ⟨by omega, ha, rfl⟩⟩
  rw [exec_decode_read hmode hcheck (crcOk_signed _) (by omega) (by omega) (by omega), hhalf, hbytes, hvalues,
    decide_eq_decide.mpr hmatch]

/-- DECODE of a SINGLE_WRITE response that echoes this register and value, against an accepted command. -/
theorem exec_decode_singleWriteEcho (hmode : d.mode = 0x06#8) (hcheck : cmdCheck d = .ok) (a : Byte) {reg : Byte}
    (hreg : reg.toNat < 13) (value : Word) (s : State) :
    exec (.decode d (signed (frameHead a 0x06#8 (zext16 reg) value))) s = .next (afterOk s { blank with
      mode := 0x06#8, valid := true, address := d.addr, count := 1#8, regs := [reg], values := [value]
      tmatch := decide (a = d.addr ∧ reg = d.start ∧ value = firstData d) }) := by
  have hfirst : rdBe16 (signed (frameHead a 0x06#8 (zext16 reg) value)) 2 = zext16 reg :=
    rdBe16_signed_first _ _ _ _ []
  have hsecond : rdBe16 (signed (frameHead a 0x06#8 (zext16 reg) value)) 4 = value :=
    rdBe16_signed_second _ _ _ _ []
  have hmatch : (byteAt (signed (frameHead a 0x06#8 (zext16 reg) value)) 0 = d.addr ∧
      byteAt (signed (frameHead a 0x06#8 (zext16 reg) value)) 1 = 0x06#8 ∧ zext16 reg = zext16 d.start ∧
      value = firstData d) ↔ a = d.addr ∧ reg = d.start ∧ value = firstData d := by
    rw [zext16_injective.eq_iff]
    exact ⟨fun ⟨ha, _, hr, hv⟩ => ⟨ha, hr, hv⟩, fun ⟨ha, hr, hv⟩ => ⟨ha, rfl, hr, hv⟩⟩
  rw [exec_decode_singleWrite hmode hcheck (crcOk_signed _) rfl (by rw [hfirst, toNat_zext16]; omega), hfirst, hsecond,
    decide_eq_decide.mpr hmatch, ← loByte_eq_setWidth, loByte_zext16]

/-- DECODE of a MULTIPLE_WRITE response that echoes the span of an accepted command. -/
theorem exec_decode_multipleWriteEcho (hmode : d.mode = 0x10#8) (hcheck : cmdCheck d = .ok) (a : Byte) (s : State) :
    exec (.decode d (signed (frameHead a 0x10#8 (zext16 d.start) (zext16 d.count)))) s =
      .next (afterOk s { blank with
        mode := 0x10#8, valid := true, address := d.addr, count := d.count
        regs := (List.range' d.start.toNat d.count.toNat).map (BitVec.ofNat 8)
        values := d.data
        tmatch := decide (a = d.addr) }) := by
  have hmatch : (byteAt (signed (frameHead a 0x10#8 (zext16 d.start) (zext16 d.count))) 0 = d.addr ∧
      byteAt (signed (frameHead a 0x10#8 (zext16 d.start) (zext16 d.count))) 1 = 0x10#8) ↔ a = d.addr :=
    and_iff_left rfl
  rw [← decide_eq_decide.mpr hmatch]
  exact exec_decode_multipleWrite hmode hcheck (crcOk_signed _) rfl (rdBe16_signed_first _ _ _ _ [])
    (rdBe16_signed_second _ _ _ _ []) s

end

/-! ### The response-frame forms (R84 to R86) -/

/-- Settles O32: the form is DECODE of the frame that its fields make. -/
theorem frameReadResponseDecodes : Obligations.FrameReadResponseDecodes := by
  unfold Obligations.FrameReadResponseDecodes
  simp only [← wordBytes_eq_flatMap]
  intro c address values s hstart hpos hspan hwindow
  exact exec_decode_readResponse (d := withMode c .read) rfl (cmdCheck_read_ok c.data hstart hpos hspan) address hwindow s

/-- Settles O33: the form is DECODE of the frame that its fields make. -/
theorem frameSingleWriteResponseDecodes : Obligations.FrameSingleWriteResponseDecodes :=
  fun _ _ address _ v value s hstart hreg =>
    exec_decode_singleWriteEcho rfl (cmdCheck_singleWrite_ok v hstart) address hreg value s

/-- Settles O34: the form is DECODE of the frame that its fields make. -/
theorem frameMultipleWriteResponseDecodes : Obligations.FrameMultipleWriteResponseDecodes :=
  fun c address s hstart hpos hspan hdata =>
    exec_decode_multipleWriteEcho (d := withMode c .multipleWrite) rfl
      (cmdCheck_multipleWrite_ok hstart hpos hspan hdata) address s

/-! ### The correct device (R90, R91) -/

theorem devRsp_read {d : Descriptor} {vals : List Word} (h : vals.length = d.count.toNat) :
    devRsp .read d vals = signed (readResponseBody d.addr vals) := by
  rw [readResponseBody, h]
  rfl

theorem devRsp_singleWrite (d : Descriptor) (vals : List Word) :
    devRsp .singleWrite d vals = signed (frameHead d.addr 0x06#8 (zext16 d.start) (firstData d)) := by
  rw [devRsp, devBody, singleWriteFrame_eq]
  rfl

theorem devRsp_multipleWrite (d : Descriptor) (vals : List Word) :
    devRsp .multipleWrite d vals = signed (frameHead d.addr 0x10#8 (zext16 d.start) (zext16 d.count)) := by
  rw [← addrOf_eq]
  rfl

/-- Settles O29: the device's response is, in each mode, a frame of its layout, with the command's own
fields in it. -/
theorem decodeRoundTrip : Obligations.DecodeRoundTrip := by
  intro m d vals s hmode hcheck hvals
  obtain ⟨-, hstart, -, hspan, hsingle, -⟩ := (cmdCheck_ok_iff d).mp hcheck
  rw [hmode]
  cases m with
  | read =>
    have hcount := hvals rfl
    rw [devRsp_read hcount, exec_decode_readResponse hmode hcheck d.addr (by omega), hcount, byteOf_toNat]
    simp [reportedValues, modeCode]
  | singleWrite =>
    obtain ⟨hone, -⟩ := hsingle hmode
    rw [devRsp_singleWrite, exec_decode_singleWriteEcho hmode hcheck d.addr hstart]
    simp [reportedValues, modeCode, hone]
  | multipleWrite =>
    rw [devRsp_multipleWrite, exec_decode_multipleWriteEcho hmode hcheck d.addr]
    simp [reportedValues, modeCode]

theorem crcOk_devRsp (m : Mode) (d : Descriptor) (vals : List Word) : crcOk (devRsp m d vals) = true :=
  crcOk_signed _

/-- Settles O30: the device's response passes the CRC check, so a flipped one does not. -/
theorem decodeRejectsBitFlips : Obligations.DecodeRejectsBitFlips := fun m d vals s i k _ _ _ hi hk =>
  exec_decode_of_bad_crc (crcDetectsSingleBitErrors _ i k (crcOk_devRsp m d vals) hi hk) d s

/-- A write command's correct response is its template. -/
theorem devRsp_write {m : Mode} (hm : m ≠ .read) (d : Descriptor) (vals : List Word) :
    devRsp m d vals = (build m d).template := by
  cases m with
  | read => exact absurd rfl hm
  | singleWrite => rw [devRsp_singleWrite, singleWriteTemplate_eq]
  | multipleWrite => rw [devRsp_multipleWrite, multipleWriteTemplate_eq]

/-- Settles O31: the write modes by `devRsp_write`; READ has as many value bytes as its template has placeholders. -/
theorem deviceResponseFitsTemplate : Obligations.DeviceResponseFitsTemplate := by
  intro m d vals s t r hmode hcheck hexec hresp
  have hmode' := (modeOf_eq_some_iff d.mode m).mpr hmode
  obtain rfl := Host.Outcome.next.inj ((exec_encode_of_accepted hcheck hmode' s).symm.trans hexec)
  obtain rfl := Option.some.inj hresp
  refine ⟨fun hm => devRsp_write hm d vals, ?_⟩
  rintro rfl hvals
  have hlen : (devRsp .read d vals).length = 5 + 2 * vals.length := by
    rw [devRsp_read hvals]
    exact length_readResponseFrame d.addr vals _
  refine ⟨?_, rfl⟩
  rw [hlen, hvals]
  exact (length_readTemplate d).symm

end Sys2Proof.Machine

/-! SUPPORT. The invariant of the response port (R23, R24, R95): the response every operation ends with is well-formed. -/

namespace Sys2Proof.Machine

/-- A request ends in a well-formed response. -/
def EndsWf (o : Result) : Prop := ∃ s st r, o = .next (respond s st r) ∧ ResponseWf { r with status := st }

theorem endsWf_finish {s : State} {r : Response} (h : ResponseWf { r with status := .ok }) : EndsWf (finish s r) :=
  ⟨s, .ok, r, rfl, h⟩

theorem endsWf_raise {s : State} {st : Status} {r : Response} (h : ResponseWf { r with status := st }) :
    EndsWf (raise s st r) := ⟨s, st, r, rfl, h⟩

/-! ### Failures and the operations on single fields (R60 to R63, R67 to R71) -/

theorem responseWf_blank (st : Status) : ResponseWf { blank with status := st } := by
  simp [ResponseWf, blank]

theorem responseWf_decodeFailure (st : Status) (d : Descriptor) : ResponseWf { decodeFailure d with status := st } := by
  simp [ResponseWf, decodeFailure, blank]

/-- The checksum fields, also on CRC_VERIFY's mismatch. -/
theorem responseWf_crcResult (st : Status) (c : Word) : ResponseWf { crcResult c with status := st } := by
  simp [ResponseWf, crcResult, blank]

theorem responseWf_crcMatch (c : Word) : ResponseWf { crcResult c with crcMatch := true, status := .ok } := by
  simp [ResponseWf, crcResult, blank]

theorem responseWf_lookupResult (r : Byte) (e : CatalogEntry) :
    ResponseWf { lookupResult r e with status := .ok } := by
  unfold lookupResult
  split <;> simp [ResponseWf, blank]

theorem responseWf_lkReg (r : Byte) : ResponseWf { blank with lkReg := r, status := .ok } := by
  simp [ResponseWf, blank]

theorem responseWf_lkOrd (r : Byte) : ResponseWf { blank with lkOrd := r, status := .ok } := by
  simp [ResponseWf, blank]

theorem crcVerify_endsWf (buf : List Byte) (s : State) : EndsWf (execCrcVerify buf s) := by
  unfold execCrcVerify
  split_ifs
  · exact endsWf_raise (responseWf_blank _)
  · exact endsWf_finish (responseWf_crcMatch _)
  · exact endsWf_raise (responseWf_crcResult _ _)

theorem lookupName_endsWf (r : Byte) (s : State) : EndsWf (execLookupName r s) := by
  unfold execLookupName
  split
  · exact endsWf_finish (responseWf_lookupResult r _)
  · exact endsWf_raise (responseWf_blank _)

theorem lookupAddr_endsWf (a : Word) (s : State) : EndsWf (execLookupAddr a s) := by
  unfold execLookupAddr
  split
  · exact endsWf_finish (responseWf_lkReg _)
  · exact endsWf_raise (responseWf_blank _)

theorem orderIndex_endsWf (r : Byte) (s : State) : EndsWf (execOrderIndex r s) := by
  unfold execOrderIndex
  split_ifs
  · exact endsWf_raise (responseWf_blank _)
  · exact endsWf_finish (responseWf_lkOrd r)

/-- A window inside the catalog names registers only (R63). -/
theorem toNat_lt_of_mem_window {r x : Byte} {n : Nat} (h : r.toNat + n ≤ 13) (hx : x ∈ window r n) : x.toNat < 13 := by
  rw [window_eq_map r n (by omega), List.mem_map] at hx
  obtain ⟨y, hy, rfl⟩ := hx
  rw [List.mem_range'_1] at hy
  rw [BitVec.toNat_ofNat]
  omega

theorem responseWf_window {r c : Byte} (h : r.toNat + c.toNat ≤ 13) :
    ResponseWf { blank with count := c, regs := window r c.toNat, status := .ok } := by
  have hregs : ∀ x ∈ window r c.toNat, x.toNat < 13 := fun _ => toNat_lt_of_mem_window h
  simpa [ResponseWf, blank] using hregs

theorem resolveWindow_endsWf (r c : Byte) (s : State) : EndsWf (execResolveWindow r c s) := by
  unfold execResolveWindow
  split_ifs with hr hspan
  · exact endsWf_raise (responseWf_blank _)
  · exact endsWf_raise (responseWf_blank _)
  · have hspan' : r.toNat + c.toNat ≤ 13 := Nat.le_of_not_lt (not_or.mp hspan).2
    exact endsWf_finish (responseWf_window hspan')

/-! ### ENCODE (R74, R80) -/

theorem length_frame_le {m : Mode} {d : Descriptor} (hmode : d.mode = modeCode m) (hcheck : cmdCheck d = .ok) :
    (build m d).frame.length ≤ 35 := by
  obtain ⟨-, -, -, hspan, -, hdata⟩ := (cmdCheck_ok_iff d).mp hcheck
  cases m with
  | read => rw [readFrame_eq]; simp
  | singleWrite => rw [singleWriteFrame_eq]; simp
  | multipleWrite =>
    have hlen := hdata hmode
    rw [multipleWriteFrame_eq]
    simp
    omega

theorem length_template_le {d : Descriptor} (hcheck : cmdCheck d = .ok) (m : Mode) :
    (build m d).template.length ≤ 31 := by
  obtain ⟨-, -, -, hspan, -⟩ := (cmdCheck_ok_iff d).mp hcheck
  by_cases hm : m = .read
  · rw [hm, length_readTemplate]
    omega
  · rw [length_writeTemplate hm]
    decide

theorem responseWf_encodeResult {m : Mode} {d : Descriptor} (hmode : d.mode = modeCode m) (hcheck : cmdCheck d = .ok) :
    ResponseWf { encodeResult m d with status := .ok } := by
  have hexp : (byteOf (build m d).template.length).toNat = (build m d).template.length :=
    toNat_byteOf (length_template_lt hcheck m)
  simp [ResponseWf, encodeResult, blank, length_frame_le hmode hcheck, length_template_le hcheck m, hexp]

theorem encodeCommand_endsWf (d : Descriptor) (s : State) : EndsWf (encodeCommand d s) := by
  obtain ⟨-, e⟩ | ⟨hcheck, m, hmode, e⟩ := encodeCommand_cases d s
  · exact e ▸ endsWf_raise (responseWf_blank _)
  · exact e ▸ endsWf_finish (responseWf_encodeResult ((modeOf_eq_some_iff _ m).mp hmode) hcheck)

/-! ### DECODE (R82 to R86) -/

/-- What a mode extracts: registers of the catalog, with one value each. -/
theorem perMode_registers {m : Mode} {d : Descriptor} {r : List Byte} {x : Decoded} (hmode : d.mode = modeCode m)
    (hcheck : cmdCheck d = .ok) (h : perMode m d r = some x) :
    x.1.length ≤ 13 ∧ (∀ y ∈ x.1, y.toNat < 13) ∧ x.2.length = x.1.length := by
  obtain ⟨-, -, -, hspan, -, hdata⟩ := (cmdCheck_ok_iff d).mp hcheck
  cases m with
  | read =>
    rw [perMode, decodeRead_eq, Option.ite_none_right_eq_some] at h
    obtain ⟨⟨-, -, -, hwindow⟩, hx⟩ := h
    obtain rfl := Option.some.inj hx
    exact ⟨by rw [length_window]; omega, fun y => toNat_lt_of_mem_window hwindow,
      by rw [length_window, length_readWords]⟩
  | singleWrite =>
    rw [perMode, decodeSingleWrite_eq, Option.ite_none_right_eq_some] at h
    obtain ⟨⟨-, hreg⟩, hx⟩ := h
    obtain rfl := Option.some.inj hx
    refine ⟨by simp, fun y hy => ?_, rfl⟩
    obtain rfl := List.mem_singleton.mp hy
    rw [BitVec.toNat_setWidth]
    omega
  | multipleWrite =>
    rw [perMode, decodeMultipleWrite_eq, Option.ite_none_right_eq_some] at h
    obtain ⟨-, hx⟩ := h
    obtain rfl := Option.some.inj hx
    exact ⟨by rw [length_window]; omega, fun y => toNat_lt_of_mem_window hspan,
      by rw [length_window, List.length_take, hdata hmode, Nat.min_self]⟩

theorem responseWf_decodeResult {m : Mode} {d : Descriptor} {r : List Byte} {x : Decoded} (hmode : d.mode = modeCode m)
    (hcheck : cmdCheck d = .ok) (h : perMode m d r = some x) :
    ResponseWf { decodeResult m d r x with status := .ok } := by
  obtain ⟨hlen, hregs, hvalues⟩ := perMode_registers hmode hcheck h
  have hcount : (byteOf x.1.length).toNat = x.1.length := toNat_byteOf (by omega)
  simpa [ResponseWf, decodeResult, blank, hcount, hvalues] using hregs

theorem decodeResponse_endsWf (d : Descriptor) (b : List Byte) (s : State) : EndsWf (decodeResponse d b s) := by
  obtain ⟨-, e⟩ | ⟨-, -, e⟩ | ⟨-, hcheck, m, hmode, ⟨-, e⟩ | ⟨x, hx, e⟩⟩ := decodeResponse_cases d b s
  · exact e ▸ endsWf_raise (responseWf_decodeFailure _ d)
  · exact e ▸ endsWf_raise (responseWf_decodeFailure _ d)
  · exact e ▸ endsWf_raise (responseWf_decodeFailure _ d)
  · exact e ▸ endsWf_finish (responseWf_decodeResult ((modeOf_eq_some_iff _ m).mp hmode) hcheck hx)

/-! ### Every instruction and every step -/

theorem exec_endsWf (i : Instr) (s : State) : EndsWf (exec i s) := by
  cases i with
  | crcInit | crcUpdate | crcBlock | crcRead => exact endsWf_finish (responseWf_crcResult _ _)
  | crcVerify buf => exact crcVerify_endsWf buf s
  | encode d => exact encodeCommand_endsWf d s
  | decode d b => exact decodeResponse_endsWf d b s
  | lookupName r => exact lookupName_endsWf r s
  | lookupAddr a => exact lookupAddr_endsWf a s
  | orderIndex r => exact orderIndex_endsWf r s
  | resolveWindow r c => exact resolveWindow_endsWf r c s
  | frameReadRequest | frameSingleWriteRequest | frameMultipleWriteRequest => exact encodeCommand_endsWf _ s
  | frameReadResponse | frameSingleWriteResponse | frameMultipleWriteResponse => exact decodeResponse_endsWf _ _ s

theorem performRequest_endsWf (q : List Byte) (s : State) : EndsWf (performRequest q s) := by
  cases hparse : decode q with
  | error e => exact performRequest_of_error hparse s ▸ endsWf_raise (responseWf_blank _)
  | ok i => exact performRequest_of_ok hparse s ▸ exec_endsWf i s

/-- The end of a request leaves the invariant: its response's `MISUSE` is the flag. -/
theorem portInv_of_endsWf {o : Result} {t : State} (h : EndsWf o) (ht : o = .next t) : PortInv t := by
  obtain ⟨s, st, r, rfl, hwf⟩ := h
  obtain rfl := Host.Outcome.next.inj ht
  intro r' hr'
  obtain rfl := Option.some.inj hr'
  exact ⟨hwf, rfl⟩

theorem portInv_of_no_response {s : State} (h : s.response = none) : PortInv s := by
  simp [PortInv, h]

/-- Settles O49: the port holds no response. -/
theorem portInvariantAtReset : Obligations.PortInvariantAtReset := portInv_of_no_response rfl

/-- Settles O50: an idle step changes nothing, reset empties the port, and a request ends in a well-formed response. -/
theorem portInvariantKept : Obligations.PortInvariantKept := by
  intro s t hinv hstep
  match hinputs : s.inputs with
  | [] =>
    obtain rfl := Host.Outcome.next.inj ((step_of_idle hinputs).symm.trans hstep)
    exact hinv
  | .reset :: rest =>
    obtain rfl := Host.Outcome.next.inj ((step_of_reset hinputs).symm.trans hstep)
    exact portInv_of_no_response (resetBlock_response _)
  | .request q :: rest =>
    exact portInv_of_endsWf (performRequest_endsWf q _) ((step_of_request hinputs).symm.trans hstep)

end Sys2Proof.Machine

/-! SUPPORT. The lines of a host program (R59), and words written out from the spec. -/

namespace Sys2Proof.Machine

/-- A program's requests are its lines', in order. -/
theorem assembleProgram_eq_map (ls : List HostLine) : assembleProgram ls = ls.map fun l => .request (assemble l) := by
  induction ls with
  | nil => rfl
  | cons l ls ih => rw [assembleProgram, ih, List.map_cons]

/-- A line stands for a request operation, never for a wire frame. -/
theorem isRequest_lineInstr (l : HostLine) : isRequest (lineInstr l) = true := by
  cases l <;> rfl

theorem assemble_decode (c : CommandLine) (rsp : List Byte) :
    assemble (.decode c rsp) = [0x20#8, c.addr, modeRefByte c.mode, regRefId c.start, c.count,
      BitVec.ofNat 8 c.data.length] ++ wordBytes c.data ++ be16 (BitVec.ofNat 16 rsp.length) ++ rsp := by
  rw [List.append_assoc]
  rfl

/-- Settles O58: a line's bytes are the encoder's of the operation it stands for, which the parse reads back. -/
theorem hostSyntaxExpands : Obligations.HostSyntaxExpands := by
  unfold Obligations.HostSyntaxExpands
  simp only [← wordBytes_eq_flatMap]
  exact ⟨rfl, fun _ => rfl, by decide, fun _ => rfl, rfl, fun _ => rfl, fun _ => rfl, fun _ => rfl, rfl,
    fun _ _ _ _ _ => rfl, fun a m r c vs => assemble_decode { addr := a, mode := m, start := r, count := c, data := vs },
    fun _ => rfl, fun _ => rfl, fun _ => rfl, fun _ _ => rfl, fun _ _ _ => rfl, fun _ _ _ => rfl, fun _ _ _ => rfl,
    fun l hwf => decodeEncodeRequest _ hwf (isRequest_lineInstr l), assembleProgram_eq_map⟩

/-- R54's example: the bits of R64, run on the six bytes of the frame's body. -/
theorem crc16_specReadRequest : crc16 (frameHead 1#8 0x03#8 (zext16 0#8) (zext16 2#8)) = 0x0BC4#16 := by
  have hbody : frameHead 1#8 0x03#8 (zext16 0#8) (zext16 2#8) = [0x01#8, 0x03#8, 0x00#8, 0x00#8, 0x00#8, 0x02#8] := by
    decide
  rw [hbody]
  simp [crc16, crcStep, crcShifts, crcShift, zext16, Config.crcPoly, Config.crcInitial]

theorem encode_specReadRequest :
    encode (.frameReadRequest 1#8 0#8 2#8) = [0x01#8, 0x03#8, 0x00#8, 0x00#8, 0x00#8, 0x02#8, 0xC4#8, 0x0B#8] := by
  rw [encode, readRequestFrame_eq, signed, crc16_specReadRequest]
  decide

/-- Settles O57: each word is the encoding of its instruction, which the decoders read back. -/
theorem specWordsDecode : Obligations.SpecWordsDecode := by
  obtain ⟨hread, -, -⟩ := requestFrameRoundTrip
  refine ⟨decodeEncodeRequest (.crcUpdate 0x01#8) rfl rfl, decodeEncodeRequest (.encode
    { addr := 1#8, mode := 0x06#8, start := 9#8, count := 1#8, data := [1#16] }) rfl rfl,
    decode_lookupAddr 0x00#8 0x0A#8, ?_⟩
  rw [← encode_specReadRequest]
  exact hread 1#8 0#8 2#8 rfl

end Sys2Proof.Machine
